-- ==== Sys2Proof/Word.lean ====
section
/-! DEFINITION. The word types of the block (00_scope.md R16): `u8`, `u16`, `u32` and the 20-bit command word.
Timestamps and Durations of the Timer are unbounded naturals (10_state.md R22, 60_exceptions.md R242): `Nat`, in ticks. -/

namespace Sys2Proof

/-- `u8` (R16): one data byte. -/
abbrev Byte := BitVec 8

/-- `u16` (R16): a drive mask. -/
abbrev Mask16 := BitVec 16

/-- `u32` (R16): a direction code, stop pattern or handshake word. -/
abbrev Word32 := BitVec 32

/-- A command word in format CMD20 (30_encoding.md R80). -/
abbrev Cmd20 := BitVec 20

end Sys2Proof
end

