-- ==== Sys2Proof/Syntax.lean ====
section
/-! DEFINITION. The nine operations of the block (30_encoding.md R95, R101). -/

namespace Sys2Proof

/-- One constructor per row of the opcode table (R95). Operands are those of R81 and R93. -/
inductive Instr where
  | bringUp
  | shutDown
  | writeRegister (address value : Byte)
  | configure
  | encode (address value : Byte)
  | expand (mask : Mask16)
  | run
  | halt
  | validate
  deriving DecidableEq, Repr

end Sys2Proof
end

