-- ==== Sys2Proof/Decode.lean ====
section
/-! DEFINITION. The decoder of CMD20 words, total, and the encoder (30_encoding.md R80, R81, R93 to R97, R100). -/

namespace Sys2Proof

/-- Why a word is no operation: its `op` is one of the reserved values 0 and 10 to 15 (R96). -/
inductive DecodeError where
  | reservedOp (op : BitVec 4)
  deriving DecidableEq, Repr

/-- Field `op`, bits 19:16 (R80). -/
def opField (w : Cmd20) : BitVec 4 := w.extractLsb' 16 4

/-- Field `a`, bits 15:8 (R80). -/
def aField (w : Cmd20) : Byte := w.extractLsb' 8 8

/-- Field `d`, bits 7:0 (R80). -/
def dField (w : Cmd20) : Byte := w.extractLsb' 0 8

/-- The 16-bit immediate of class M: the high byte is `a`, the low byte is `d` (R81, R93). -/
def maskField (w : Cmd20) : Mask16 := aField w ++ dField w

/-- The decoder (R95, R96): it needs only `op` to choose (R100), and ignores `a` and `d` in class N (R97). -/
def decode (w : Cmd20) : Except DecodeError Instr :=
  match (opField w).toNat with
  | 1 => .ok .bringUp
  | 2 => .ok .shutDown
  | 3 => .ok (.writeRegister (aField w) (dField w))
  | 4 => .ok .configure
  | 5 => .ok (.encode (aField w) (dField w))
  | 6 => .ok (.expand (maskField w))
  | 7 => .ok .run
  | 8 => .ok .halt
  | 9 => .ok .validate
  | _ => .error (.reservedOp (opField w))

/-- A CMD20 word from its three fields (R80). -/
def cmdWord (op : BitVec 4) (a d : Byte) : Cmd20 := (op ++ a) ++ d

/-- The canonical word of an operation (R95); class N has `a` and `d` zero (R97). -/
def encode : Instr → Cmd20
  | .bringUp => cmdWord 1 0 0
  | .shutDown => cmdWord 2 0 0
  | .writeRegister address value => cmdWord 3 address value
  | .configure => cmdWord 4 0 0
  | .encode address value => cmdWord 5 address value
  | .expand mask => cmdWord 6 (mask.extractLsb' 8 8) (mask.extractLsb' 0 8)
  | .run => cmdWord 7 0 0
  | .halt => cmdWord 8 0 0
  | .validate => cmdWord 9 0 0

/-- The command word that the opcode table's bits `w` (of `nbits`) stand for; `none` where they are no 20-bit word. -/
def tableWord (nbits w : Nat) : Option Cmd20 :=
  if w % 2 ^ nbits < 2 ^ 20 then some (BitVec.ofNat 20 (w % 2 ^ nbits)) else none

/-- The instruction the decoder reads from a row of the opcode table whose bits are `w`. -/
def decodeTableWord (nbits w : Nat) : Option Instr :=
  match tableWord nbits w with
  | none => none
  | some c =>
    match decode c with
    | .ok i => some i
    | .error _ => none

end Sys2Proof
end

