-- ==== Sys2Proof/Config.lean ====
section
/-! DEFINITION. What the platform fixes (00_scope.md R8 to R15, 10_state.md R30), what the environment agents supply
at one instant (R6, R42, R43, R244, R246, R260), and the free values of the model. -/

namespace Sys2Proof

/-- The pins the block uses (R14). Physical pin numbers are OPEN and no rule reads one: a pin is its role. -/
inductive Pin where
  | data0 | data1 | data2 | data3 | data4 | data5 | data6 | data7
  | stp | nxt | dir | reset | clk
  deriving DecidableEq, Repr, Inhabited

/-- `PIN_DATA[0]` .. `PIN_DATA[7]`, in that order (R30, R65). -/
def Pin.dataPins : List Pin :=
  [.data0, .data1, .data2, .data3, .data4, .data5, .data6, .data7]

/-- `direction_mode` (R30, R92; meanings in R145). -/
inductive DirectionMode where
  | outputFixed | outputStream | inputStream | bidirectional
  deriving DecidableEq, Repr, Inhabited

/-- `clock_edge` (R30, R92). -/
inductive ClockEdge where
  | rising | falling
  deriving DecidableEq, Repr, Inhabited

/-- The opposite edge: `OUT_EDGE != IN_EDGE` (R14). -/
def ClockEdge.other : ClockEdge → ClockEdge
  | .rising => .falling
  | .falling => .rising

/-- `CLOCK_SOURCE` (R15): how the PHY clock is wired. -/
inductive ClockSource where
  | internal | external
  deriving DecidableEq, Repr, Inhabited

/-- The three channels, in descriptor order (R30). -/
inductive Chan where
  | data | stp | nxt
  deriving DecidableEq, Repr, Inhabited

/-- The channels in the order every check of `CONFIGURE` takes them (R142, R143). -/
def Chan.all : List Chan := [.data, .stp, .nxt]

/-- A Channel Descriptor (R30): pure data. Buffers are given by their length in bytes; their contents are state. -/
structure Descriptor where
  pins : List Pin
  mode : DirectionMode
  clockSource : ClockSource
  clockEdge : ClockEdge
  bufferLen : Nat
  directionBufferLen : Option Nat
  cycleLimit : Nat
  deriving DecidableEq, Repr, Inhabited

/-- `DESC[0..2]` (R30). -/
structure Descriptors where
  data : Descriptor
  stp : Descriptor
  nxt : Descriptor
  deriving DecidableEq, Repr, Inhabited

/-- `DESC[c]`. -/
def Descriptors.get (d : Descriptors) : Chan → Descriptor
  | .data => d.data
  | .stp => d.stp
  | .nxt => d.nxt

/-- The reference table of R30, with `cycle_limit`, clock wiring and edges as the platform's parameters say. -/
def referenceTable (limit : Nat) (cs : ClockSource) (outEdge inEdge : ClockEdge) : Descriptors where
  data := { pins := Pin.dataPins, mode := .bidirectional, clockSource := cs, clockEdge := outEdge,
            bufferLen := 8, directionBufferLen := some 4, cycleLimit := limit }
  stp := { pins := [.stp], mode := .outputFixed, clockSource := cs, clockEdge := outEdge,
           bufferLen := 4, directionBufferLen := none, cycleLimit := limit }
  nxt := { pins := [.nxt], mode := .inputStream, clockSource := cs, clockEdge := inEdge,
           bufferLen := 4, directionBufferLen := none, cycleLimit := limit }

/-- The platform's parameters (R8 to R15, R268): constant, no operation changes one. Levels are `true` for 1. -/
structure Params where
  /-- `CYCLE_LIMIT` (R9, default 8). -/
  cycleLimit : Nat
  /-- `IDLE_CODE` (R12, default `0x00`). -/
  idleCode : Byte
  /-- `STP_PATTERN_WRITE` (R12, default `0x00000020`). -/
  stpPatternWrite : Word32
  /-- `T_RESET_HOLD` (R13, OPEN). -/
  tResetHold : Nat
  /-- `T_SETTLE` (R13, OPEN). -/
  tSettle : Nat
  /-- `T_CLOCK_DEADLINE` (R13, OPEN). -/
  tClockDeadline : Nat
  /-- `POLL_EPS` (R13, OPEN): the largest time between two polls of `AwaitingClockStable` (R188). -/
  pollEps : Nat
  /-- `RUN_TIMEOUT` (R13, default `none`). -/
  runTimeout : Option Nat
  /-- `CLOCK_SOURCE` (R15, OPEN). -/
  clockSource : ClockSource
  /-- `SANITY_CHECKS = enabled` (R15, OPEN). -/
  sanityChecks : Bool
  /-- `OUT_EDGE` (R14, OPEN). -/
  outEdge : ClockEdge
  /-- `IN_EDGE` (R14, OPEN, different from `OUT_EDGE`). -/
  inEdge : ClockEdge
  /-- `STP_ASSERTED` (R14, default 1). -/
  stpAsserted : Bool
  /-- `DIR_ASSERTED` (R14, default 1). -/
  dirAsserted : Bool
  /-- `NXT_ASSERTED` (R14, default 1). -/
  nxtAsserted : Bool
  /-- `DESC[0..2]` (R30). -/
  desc : Descriptors
  deriving DecidableEq, Repr, Inhabited

/-- The reference table under the platform's own parameters. -/
def Params.reference (p : Params) : Descriptors :=
  referenceTable p.cycleLimit p.clockSource p.outEdge p.inEdge

/-- An answer of the Environment Sanity Checker (R246); the reason is opaque to the block (R23). -/
inductive CheckAnswer where
  | ok
  | fail (reason : Nat)
  deriving DecidableEq, Repr, Inhabited

/-- What the environment presents at one instant (R6, R42, R43, R158, R244, R246, R260). Pin levels are electrical. -/
structure Instant where
  /-- `rst_n`: `false` asserts the hardware reset (R260). -/
  rstN : Bool
  /-- `halt_req` (R43, R158). -/
  haltReq : Bool
  /-- `cmd_valid` and `cmd_word`: the word presented, if one is (R43). -/
  cmd : Option Cmd20
  /-- One PHY clock cycle falls in this instant (R148). -/
  phyClk : Bool
  /-- The level on `PIN_NXT` (R42). -/
  nxtPin : Bool
  /-- The level on `PIN_DIR` (R42). -/
  dirPin : Bool
  /-- The Timer's answer to `now()` (R241). -/
  now : Nat
  /-- The answer to a `check()` made at this instant before clock stabilization (R193). -/
  checkPre : CheckAnswer
  /-- The answer to a `check()` made at this instant after clock stabilization (R193). -/
  checkPost : CheckAnswer
  /-- The pins with `pin_available[p] = 0` (R244). -/
  unavailable : List Pin
  deriving DecidableEq, Repr, Inhabited

/-- OPEN (R13): the platform's `T_RESET_HOLD`. -/
opaque Config.tResetHold : Nat
/-- OPEN (R13): the platform's `T_SETTLE`. -/
opaque Config.tSettle : Nat
/-- OPEN (R13): the platform's `T_CLOCK_DEADLINE`. -/
opaque Config.tClockDeadline : Nat
/-- OPEN (R13): the platform's `POLL_EPS`. -/
opaque Config.pollEps : Nat
/-- OPEN (R15): the platform's `CLOCK_SOURCE`. -/
opaque Config.clockSource : ClockSource
/-- OPEN (R15): the platform's `SANITY_CHECKS`. -/
opaque Config.sanityChecks : Bool
/-- OPEN (R14): the platform's `OUT_EDGE`. -/
opaque Config.outEdge : ClockEdge

/-- Free value: what `rsp_expected` holds after a response other than `HandshakeMismatch` (R91). -/
opaque Config.freeRspExpected : Nat → Word32
/-- Free value: what `rsp_observed` holds after a response other than `HandshakeMismatch` (R91). -/
opaque Config.freeRspObserved : Nat → Word32
/-- Free value: what `bu_deadline` holds in `Ready` and in `Failed` (R22). -/
opaque Config.freeDeadline : Nat → Nat
/-- Free value: how long after the deadline the poll falls that ends a gap in the schedule; `POLL_EPS` bounds it
where it is used (R188). -/
opaque Config.freePollDelay : Nat → Nat
/-- Free value: what the environment presents once the inputs held in the state are used up (R6). -/
opaque Config.freeInstant : Nat → Instant

/-- The platform after reset: the spec's defaults, and an uninterpreted constant for every OPEN parameter. -/
def Params.initial : Params where
  cycleLimit := 8
  idleCode := 0x00
  stpPatternWrite := 0x00000020
  tResetHold := Config.tResetHold
  tSettle := Config.tSettle
  tClockDeadline := Config.tClockDeadline
  pollEps := Config.pollEps
  runTimeout := none
  clockSource := Config.clockSource
  sanityChecks := Config.sanityChecks
  outEdge := Config.outEdge
  inEdge := Config.outEdge.other
  stpAsserted := true
  dirAsserted := true
  nxtAsserted := true
  desc := referenceTable 8 Config.clockSource Config.outEdge Config.outEdge.other

end Sys2Proof
end

