-- ==== Sys2Proof/Machine/State.lean ====
section
/-! DEFINITION. The state of the block as plain data (10_state.md R20 to R45), its reset value
(70_reset_and_hazards.md R260 to R266), and the reasons a step can stop. -/

namespace Sys2Proof.Machine

/-- `bu_state` (R21). `failed` has the one reason the spec defines, `ClockStartupTimeout`. -/
inductive BuState where
  | resetAsserted | resetReleased | awaitingClockStable | ready | failed
  deriving DecidableEq, Repr

/-- `env_pre`, `env_post` (R23). -/
inductive EnvRecord where
  | notRun
  | ok
  | fail (reason : Nat)
  deriving DecidableEq, Repr

/-- The PHY Bring-Up Session (R21 to R23). -/
structure Session where
  /-- `bu_state` (R21). -/
  buState : BuState
  /-- `bu_deadline` (R22). -/
  buDeadline : Nat
  /-- `env_pre` (R23). -/
  envPre : EnvRecord
  /-- `env_post` (R23). -/
  envPost : EnvRecord
  deriving DecidableEq, Repr

/-- The bus-transaction registers (R24 to R27). -/
structure TxRegs where
  /-- `command_byte` (R24). -/
  commandByte : Byte
  /-- `value_byte` (R25). -/
  valueByte : Byte
  /-- `drive_mask` (R26). -/
  driveMask : Mask16
  /-- `expected_handshake` (R27). -/
  expectedHandshake : Word32
  deriving DecidableEq, Repr

/-- The four buffers (R28, R29, R39, R40; 20_memory.md R60). In the bit buffers bit `i` belongs to cycle `i`
(bits `2i`, `2i+1` in `dirBuf`). -/
structure Buffers where
  /-- `data_buf` (R28): 8 bytes, one per cycle. -/
  dataBuf : Vector Byte 8
  /-- `dir_buf` (R29). -/
  dirBuf : Word32
  /-- `stp_buf` (R39). -/
  stpBuf : Word32
  /-- `cap_buf` (R40). -/
  capBuf : Word32
  deriving DecidableEq, Repr

/-- The programmed copy of one channel's descriptor: `ch_mode[c]`, `ch_clock_source[c]`, `ch_clock_edge[c]`,
`ch_cycle_limit[c]` (R31). -/
structure ChannelRegs where
  mode : DirectionMode
  clockSource : ClockSource
  clockEdge : ClockEdge
  cycleLimit : Nat
  deriving DecidableEq, Repr

/-- The channel control registers (R31 to R35). -/
structure Control where
  /-- `configured` (R31). -/
  configured : Bool
  /-- `running` (R32). -/
  running : Bool
  /-- `cyc` (R33): a 4-bit counter. -/
  cyc : BitVec 4
  /-- `run_done` (R34). -/
  runDone : Bool
  /-- `run_halted` (R35). -/
  runHalted : Bool
  /-- The DATA channel's programmed copy (R31). -/
  chData : ChannelRegs
  /-- The STP channel's programmed copy (R31). -/
  chStp : ChannelRegs
  /-- The NXT channel's programmed copy (R31). -/
  chNxt : ChannelRegs
  deriving DecidableEq, Repr

/-- The host-port registers (R36, R44); the widths are those of 30_encoding.md R88 to R91. -/
structure HostPort where
  /-- `busy` (R36). -/
  busy : Bool
  /-- `rsp_valid` (R44). -/
  rspValid : Bool
  /-- `rsp_code` (R88). -/
  rspCode : BitVec 4
  /-- `rsp_stage` (R89). -/
  rspStage : BitVec 3
  /-- `rsp_info` (R90). -/
  rspInfo : Byte
  /-- `rsp_expected` (R91). -/
  rspExpected : Word32
  /-- `rsp_observed` (R91). -/
  rspObserved : Word32
  deriving DecidableEq, Repr

/-- The pin output registers (R41). `data_oe` has one bit per sub-phase. -/
structure PinRegs where
  /-- `reset_out`: 0 asserts the PHY's reset. -/
  resetOut : Bool
  /-- `stp_level`: the static logical level of `PIN_STP` (1 = asserted). -/
  stpLevel : Bool
  /-- `data_out`. -/
  dataOut : Byte
  /-- `data_oe` in the first sub-phase of the cycle. -/
  dataOe0 : Bool
  /-- `data_oe` in the second sub-phase of the cycle. -/
  dataOe1 : Bool
  deriving DecidableEq, Repr

/-- A value of `owner[p]` (R37). -/
inductive Owner where
  | free | session | controller
  deriving DecidableEq, Repr

/-- The pin ownership map `owner` (R37). -/
structure OwnerMap where
  data0 : Owner
  data1 : Owner
  data2 : Owner
  data3 : Owner
  data4 : Owner
  data5 : Owner
  data6 : Owner
  data7 : Owner
  stp : Owner
  nxt : Owner
  dir : Owner
  reset : Owner
  clk : Owner
  deriving DecidableEq, Repr

/-- The operation in progress, which the spec implies by `busy = 1` (R36, R38; 44_bringup_fsm.md R183, R185, R188;
42_bus_controller.md R146, R155): what the block waits for. `t0` is the time of the start trigger. -/
inductive InFlight where
  /-- No operation is in progress. -/
  | idle
  /-- `BRING_UP` waits out `T_RESET_HOLD` (R183). -/
  | bringUpHold
  /-- `BRING_UP` waits out `T_SETTLE` (R185). -/
  | bringUpSettle
  /-- `BRING_UP` polls DIR (R188). -/
  | bringUpPoll
  /-- `RUN` waits for the channels (R146). -/
  | run (t0 : Nat)
  /-- `WRITE_REGISTER` waits for the channels in its step 4 (45_register_write.md R210). -/
  | writeRun (t0 : Nat)
  deriving DecidableEq, Repr

/-- The state: the groups of R20, and the model's own fields `cfg` (the platform's constant parameters), `inFlight`,
`env` (the inputs at the present instant), `inputs` (the inputs of the coming instants) and `freeCount` (how many
free values have been drawn). -/
structure State where
  cfg : Params
  session : Session
  tx : TxRegs
  buf : Buffers
  ctl : Control
  port : HostPort
  pins : PinRegs
  owner : OwnerMap
  inFlight : InFlight
  env : Instant
  inputs : List Instant
  freeCount : Nat
  deriving DecidableEq, Repr

/-- Why a step stops with a fault. -/
inductive Fault where
  /-- Raised by the channel engine when it is asked to shift a cycle whose index is not below `CYCLE_LIMIT`, or
  when `CYCLE_LIMIT` exceeds the 8 elements of `data_buf`: R61 says such an index cannot be formed, and no state
  that an operation leads to has one. Safe. -/
  | cycleIndexOutsideBuffers
  deriving DecidableEq, Repr

/-- Why a step is refused. -/
inductive Refusal where
  /-- Raised by `exec` for an instruction that has no meaning yet; no arm is left that does. Safe. -/
  | notModelled (mnemonic : String)
  /-- Raised by `ENCODE` and `WRITE_REGISTER` for an address above `ADDR_MAX`: R98 and U5 put it outside the
  admitted domain and ask a model to refuse it. Safe. -/
  | addressOutsideDomain (address : Byte)
  /-- Raised by `RUN` and `WRITE_REGISTER` when the descriptors pass `CONFIGURE` but are not the reference table:
  U12 says that only the reference table has rules for `RUN` and that a model must refuse the others. Safe. -/
  | noRunRuleForDescriptors
  deriving DecidableEq, Repr

/-- Ownership after reset (R37, R263). -/
def OwnerMap.initial : OwnerMap where
  data0 := .free
  data1 := .free
  data2 := .free
  data3 := .free
  data4 := .free
  data5 := .free
  data6 := .free
  data7 := .free
  stp := .session
  nxt := .free
  dir := .session
  reset := .session
  clk := .free

/-- A channel's programmed copy before any `CONFIGURE`: the spec gives it no value. DESIGN CHOICE, log entry 6. -/
def ChannelRegs.initial : ChannelRegs where
  mode := .outputFixed
  clockSource := .internal
  clockEdge := .rising
  cycleLimit := 0

/-- The inputs at the instant of reset: nothing is asked of the block. DESIGN CHOICE, log entry 7. -/
def quietInstant : Instant where
  rstN := true
  haltReq := false
  cmd := none
  phyClk := false
  nxtPin := false
  dirPin := false
  now := 0
  checkPre := .ok
  checkPost := .ok
  unavailable := []

/-- The machine right after reset (R261 to R266). Every register that R264 and R265 leave unspecified holds zero:
DESIGN CHOICE, log entries 5 and 6. -/
def State.reset : State where
  cfg := Params.initial
  session := { buState := .resetAsserted, buDeadline := 0, envPre := .notRun, envPost := .notRun }
  tx := { commandByte := 0, valueByte := 0, driveMask := 0, expectedHandshake := 0 }
  buf := { dataBuf := #v[0, 0, 0, 0, 0, 0, 0, 0], dirBuf := 0, stpBuf := 0, capBuf := 0 }
  ctl := { configured := false, running := false, cyc := 0, runDone := false, runHalted := false,
           chData := .initial, chStp := .initial, chNxt := .initial }
  port := { busy := false, rspValid := false, rspCode := 0, rspStage := 0, rspInfo := 0,
            rspExpected := 0, rspObserved := 0 }
  pins := { resetOut := false, stpLevel := true, dataOut := 0, dataOe0 := false, dataOe1 := false }
  owner := .initial
  inFlight := .idle
  env := quietInstant
  inputs := []
  freeCount := 0

end Sys2Proof.Machine
end

