-- ==== Sys2Proof/Machine/Flags.lean ====
section
/-! DEFINITION. The response fields (30_encoding.md R88 to R91): codes, stages and the info bits of every outcome of
an operation. The block has no condition codes (10_state.md R45); its flags are written by the operations. -/

namespace Sys2Proof.Machine

/-- The successes and their `rsp_code` (R88). -/
inductive Success where
  | ok
  | ready
  deriving DecidableEq, Repr

/-- `rsp_code` of a success (R88). -/
def Success.code : Success → BitVec 4
  | .ok => 0
  | .ready => 1

/-- The sub-causes of `ConfigurationError` (R90, R142, R143). -/
inductive SubCause where
  | bufLenNotPow2 | cycleLimitMismatch | dirBufPresence | bufferTooSmall | pinUnavailable
  deriving DecidableEq, Repr

/-- The number of a sub-cause, bits 2:0 of `rsp_info` (R90). -/
def SubCause.number : SubCause → Byte
  | .bufLenNotPow2 => 1
  | .cycleLimitMismatch => 2
  | .dirBufPresence => 3
  | .bufferTooSmall => 4
  | .pinUnavailable => 5

/-- The index of a channel, bits 4:3 of `rsp_info` (R90). -/
def chanNumber : Chan → Byte
  | .data => 0
  | .stp => 1
  | .nxt => 2

/-- The failures with the values each records (60_exceptions.md R220). -/
inductive Failure where
  /-- `ConfigurationError` (R221). -/
  | configurationError (channel : Chan) (cause : SubCause)
  /-- `ClockStartupTimeout` (R222), with the env bits. -/
  | clockStartupTimeout (envBits : Byte)
  /-- `HandshakeMismatch` (R223). -/
  | handshakeMismatch (expected observed : Word32)
  /-- `TransactionTimeout` (R225). -/
  | transactionTimeout
  /-- `IllegalOperation` from the decoder (R96, R226), with the reserved `op`. -/
  | illegalDecode (op : BitVec 4)
  /-- `IllegalOperation` from `RUN` with `configured = 0` (R146, R226). -/
  | illegalRun
  deriving DecidableEq, Repr

/-- `rsp_code` of a failure (R88, R220). -/
def Failure.code : Failure → BitVec 4
  | .configurationError _ _ => 2
  | .clockStartupTimeout _ => 3
  | .handshakeMismatch _ _ => 4
  | .transactionTimeout => 5
  | .illegalDecode _ => 6
  | .illegalRun => 6

/-- `rsp_stage` of a failure (R89, R220). -/
def Failure.stage : Failure → BitVec 3
  | .configurationError _ _ => 1
  | .clockStartupTimeout _ => 6
  | .handshakeMismatch _ _ => 5
  | .transactionTimeout => 4
  | .illegalDecode _ => 7
  | .illegalRun => 4

/-- `rsp_info` of a failure (R90): `(channel << 3) | sub-cause`, the env bits, or the offending `op`. -/
def Failure.info : Failure → Byte
  | .configurationError channel cause => (chanNumber channel <<< 3) ||| cause.number
  | .clockStartupTimeout envBits => envBits
  | .handshakeMismatch _ _ => 0
  | .transactionTimeout => 0
  | .illegalDecode op => op.zeroExtend 8
  | .illegalRun => 7

/-- `rsp_expected` and `rsp_observed` of a failure: written only with `HandshakeMismatch` (R91). -/
def Failure.words : Failure → Option (Word32 × Word32)
  | .handshakeMismatch expected observed => some (expected, observed)
  | _ => none

/-- Whether a record is `Fail` (R90). -/
def EnvRecord.failed : EnvRecord → Bool
  | .notRun => false
  | .ok => false
  | .fail _ => true

/-- The env bits of `rsp_info` after `BRING_UP` (R90): bit 0 for `env_pre`, bit 1 for `env_post`. -/
def envBits (s : Session) : Byte :=
  (if s.envPre.failed then 1 else 0) ||| (if s.envPost.failed then 2 else 0)

/-- `rsp_info` after `RUN` (R90): bit 0 is `run_halted`. -/
def runInfo (c : Control) : Byte := if c.runHalted then 1 else 0

end Sys2Proof.Machine
end

