-- ==== Sys2Proof/WellFormed.lean ====
section
/-! DEFINITION. The admitted operands (30_encoding.md R98, 93_implementation_defined.md U5). -/

namespace Sys2Proof

/-- `ADDR_MAX` (00_scope.md R12): the largest register address the spec admits. -/
def addrMax : Byte := 0x3F

/-- The operands are in the admitted domain: a register address is at most `ADDR_MAX` (R98); nothing else is
restricted. -/
def Instr.wellFormed : Instr → Bool
  | .bringUp => true
  | .shutDown => true
  | .writeRegister address _ => decide (address ≤ addrMax)
  | .configure => true
  | .encode address _ => decide (address ≤ addrMax)
  | .expand _ => true
  | .run => true
  | .halt => true
  | .validate => true

end Sys2Proof
end

