-- ==== Sys2Proof/Machine/Operands.lean ====
section
/-! DEFINITION. Operand values and bus-level formats: the protocol constants (00_scope.md R12), the command byte
(30_encoding.md R94), the frame (R83), the expansion of a drive mask (40_direction_expander.md R112), and the views
of the buffers (20_memory.md R64 to R66). -/

namespace Sys2Proof.Machine

/-- `WRITE_OPCODE` (R12). -/
def writeOpcode : Byte := 0x80

/-- `DRIVE_MASK_WRITE` (R12, R126): cycles 1 to 6 driven. -/
def driveMaskWrite : Mask16 := 0x007E

/-- `EXPECTED_HANDSHAKE_WRITE` (R12, R128). -/
def expectedHandshakeWrite : Word32 := 0x00000030

/-- The address is in the admitted domain (R98). -/
def addressAdmitted (address : Byte) : Bool := decide (address ≤ addrMax)

/-- The command byte of a write, `0x80 | address` at 8 bits (R94, R124). -/
def commandByteOf (address : Byte) : Byte := writeOpcode ||| address

/-- Format FRAME8 (R83, R121 to R125): the data byte of each of the 8 cycles. -/
def frame (idleCode command value : Byte) : Vector Byte 8 :=
  #v[idleCode, command, command, command, value, idleCode, idleCode, idleCode]

/-- The code of the cycles below `n`: `11` for a driven cycle, `00` for a released one (R112). -/
def expandBelow (m : Mask16) : Nat → Word32
  | 0 => 0
  | n + 1 => if m.getLsbD n then expandBelow m n ||| (3#32 <<< (2 * n)) else expandBelow m n

/-- `expand16` (R112). -/
def expand16 (m : Mask16) : Word32 := expandBelow m 16

/-- A 32-bit buffer with the bit of cycle `k` set to `b` (R64, R204: `MemWrite(cap_buf, k, 1, b)`). -/
def writeBit (w : Word32) (k : Nat) (b : Bool) : Word32 :=
  if b then w ||| (1#32 <<< k) else w &&& ~~~(1#32 <<< k)

/-- Byte `j` of a 32-bit buffer viewed as a byte sequence, little-endian (R66). -/
def wordByte (w : Word32) (j : Nat) : Byte := w.extractLsb' (8 * j) 8

/-- A pin's logical value: 1 when its level is the asserted one (R14, R42). -/
def logicalOf (asserted level : Bool) : Bool := level == asserted

/-- A pin's level for a logical value (R14). -/
def levelOf (asserted logical : Bool) : Bool := if logical then asserted else !asserted

/-- The record of a checker's answer (R23). -/
def recordOf : CheckAnswer → EnvRecord
  | .ok => .ok
  | .fail reason => .fail reason

/-- `is_pow2` (42_bus_controller.md R142). -/
def isPow2 (n : Nat) : Bool := decide (1 ≤ n) && (n &&& (n - 1)) == 0

/-- `elapsed_since(t) = now() - t` (60_exceptions.md R241). -/
def elapsedSince (now t : Nat) : Nat := now - t

end Sys2Proof.Machine
end

