-- ==== Sys2Proof/Machine/Ops.lean ====
section
/-! DEFINITION. The named operations every meaning is built from: acceptance and response, raising a failure (this
block's nearest thing to taking an exception, 60_exceptions.md R220, R233; it has no return, R236), pin ownership,
halting, the start trigger, the channel engine, the hardware reset, and the derived outputs. -/

namespace Sys2Proof.Machine

/-- What a step answers in this model. -/
abbrev Result := Host.Outcome State Fault Refusal

/-- Go on from a next state; a fault or a refusal stays. -/
def andThen (r : Result) (f : State → Result) : Result :=
  match r with
  | .next s => f s
  | .fault e => .fault e
  | .refused e => .refused e

/-! ### Acceptance, response, failure -/

/-- Acceptance of an operation: `busy` is set and `rsp_valid` cleared (R36, R44). -/
def accept (s : State) : State :=
  { s with port := { s.port with busy := true, rspValid := false } }

/-- The operation in progress waits for `f`. -/
def waitFor (f : InFlight) (s : State) : State := { s with inFlight := f }

/-- Write the response registers and end the operation (R44, R206, R233). The two handshake words are unspecified
unless given (R91): then they are free values, log entry 8. -/
def writeResponse (code : BitVec 4) (stage : BitVec 3) (info : Byte) (words : Option (Word32 × Word32))
    (s : State) : State :=
  { s with
    port :=
      { busy := false, rspValid := true, rspCode := code, rspStage := stage, rspInfo := info,
        rspExpected := match words with
          | some w => w.1
          | none => Config.freeRspExpected s.freeCount
        rspObserved := match words with
          | some w => w.2
          | none => Config.freeRspObserved s.freeCount }
    inFlight := .idle
    freeCount := s.freeCount + 1 }

/-- A success: code `Ok` or `Ready`, stage `None` (R88, R89, R233). -/
def succeed (c : Success) (info : Byte) (s : State) : State :=
  writeResponse c.code 0 info none s

/-- `raise F` (R17, R233): the one shared operation for every failure. Nothing is saved and control goes nowhere. -/
def raise (f : Failure) (s : State) : State :=
  writeResponse f.code f.stage f.info f.words s

/-! ### Pin ownership -/

/-- `owner[p]` (R37). -/
def OwnerMap.get (m : OwnerMap) : Pin → Owner
  | .data0 => m.data0
  | .data1 => m.data1
  | .data2 => m.data2
  | .data3 => m.data3
  | .data4 => m.data4
  | .data5 => m.data5
  | .data6 => m.data6
  | .data7 => m.data7
  | .stp => m.stp
  | .nxt => m.nxt
  | .dir => m.dir
  | .reset => m.reset
  | .clk => m.clk

/-- `owner[p] <- o`. -/
def OwnerMap.set (m : OwnerMap) (p : Pin) (o : Owner) : OwnerMap :=
  match p with
  | .data0 => { m with data0 := o }
  | .data1 => { m with data1 := o }
  | .data2 => { m with data2 := o }
  | .data3 => { m with data3 := o }
  | .data4 => { m with data4 := o }
  | .data5 => { m with data5 := o }
  | .data6 => { m with data6 := o }
  | .data7 => { m with data7 := o }
  | .stp => { m with stp := o }
  | .nxt => { m with nxt := o }
  | .dir => { m with dir := o }
  | .reset => { m with reset := o }
  | .clk => { m with clk := o }

/-- `owner[p] <- o` for every pin of a list. -/
def OwnerMap.setAll (o : Owner) : List Pin → OwnerMap → OwnerMap
  | [], m => m
  | p :: ps, m => OwnerMap.setAll o ps (m.set p o)

/-- `if owner[p] = Controller: owner[p] <- Free` for every pin of a list (44_bringup_fsm.md R196). -/
def OwnerMap.release : List Pin → OwnerMap → OwnerMap
  | [], m => m
  | p :: ps, m => OwnerMap.release ps (if m.get p = .controller then m.set p .free else m)

/-- The pin is available to the controller: `bind(p)` does not answer `PinUnavailable` (R37, R143, R244). -/
def pinAvailable (s : State) (p : Pin) : Bool :=
  !(decide (p ∈ s.env.unavailable)) && !(decide (s.owner.get p = .session))

/-! ### The channels -/

/-- The outputs of cycle `k` (R149, R150): the data byte and the two output enables. `stp_pin` is derived
(`stpPin`). -/
def presentCycle (k : Fin 8) (s : State) : State :=
  { s with
    pins := { s.pins with
      dataOut := s.buf.dataBuf[k]
      dataOe0 := s.buf.dirBuf.getLsbD (2 * k.val)
      dataOe1 := s.buf.dirBuf.getLsbD (2 * k.val + 1) } }

/-- The data pins are released: `data_oe = 0`. -/
def releaseData (s : State) : State :=
  { s with pins := { s.pins with dataOe0 := false, dataOe1 := false } }

/-- `halt_all()` (R157). -/
def haltAll (s : State) : State :=
  releaseData
    { s with ctl := { s.ctl with
        runHalted := s.ctl.running || s.ctl.runHalted
        running := false } }

/-- `start_trigger()` (R147); the outputs of cycle 0 stand from here on (log entry 11). -/
def startTrigger (s : State) : State :=
  presentCycle 0
    { s with
      buf := { s.buf with capBuf := 0 }
      ctl := { s.ctl with cyc := 0, runDone := false, runHalted := false, running := true } }

/-- `auto_halt()` (R152). -/
def autoHalt (s : State) : State :=
  releaseData { s with ctl := { s.ctl with running := false, runDone := true } }

/-- The capture of cycle `k` and the advance of `cyc` (R148, R151). -/
def captureCycle (k : Nat) (nxt : Bool) (s : State) : State :=
  { s with
    buf := { s.buf with capBuf := writeBit s.buf.capBuf k nxt }
    ctl := { s.ctl with cyc := BitVec.ofNat 4 (k + 1) } }

/-- `engine_step()` (R148): one PHY clock cycle, taken while `running = 1`. The index of the cycle is below
`CYCLE_LIMIT`, and the limit within the 8 elements of `data_buf` (R61); another index cannot be formed and
faults. -/
def engineStep (nxt : Bool) (s : State) : Result :=
  if h : s.cfg.cycleLimit ≤ 8 ∧ s.ctl.cyc.toNat < s.cfg.cycleLimit then
    if h' : s.ctl.cyc.toNat + 1 < s.cfg.cycleLimit then
      .next (presentCycle ⟨s.ctl.cyc.toNat + 1, Nat.lt_of_lt_of_le h' h.1⟩
        (captureCycle s.ctl.cyc.toNat nxt s))
    else
      .next (autoHalt (captureCycle s.ctl.cyc.toNat nxt s))
  else
    .fault .cycleIndexOutsideBuffers

/-- The programmed copy of a descriptor (R144). -/
def programmed (d : Descriptor) : ChannelRegs where
  mode := d.mode
  clockSource := d.clockSource
  clockEdge := d.clockEdge
  cycleLimit := d.cycleLimit

/-- The channels are programmed as the reference table says, the only one `RUN` has rules for (U12), with a
`CYCLE_LIMIT` that the buffers hold (R61). -/
def referenceRunnable (s : State) : Bool :=
  decide (s.cfg.desc = s.cfg.reference)
    && decide (s.ctl.chData = programmed s.cfg.reference.data)
    && decide (s.ctl.chStp = programmed s.cfg.reference.stp)
    && decide (s.ctl.chNxt = programmed s.cfg.reference.nxt)
    && decide (1 ≤ s.cfg.cycleLimit) && decide (s.cfg.cycleLimit ≤ 8)

/-! ### Inputs, events and derived outputs -/

/-- Logical `dir_in` at the present instant (R42): `true` when the PHY owns the bus. -/
def dirIn (s : State) : Bool := logicalOf s.cfg.dirAsserted s.env.dirPin

/-- Logical `nxt_in` at the present instant (R42). -/
def nxtIn (s : State) : Bool := logicalOf s.cfg.nxtAsserted s.env.nxtPin

/-- `now()` at the present instant (R241). -/
def now (s : State) : Nat := s.env.now

/-- `cmd_ready = ~busy` (R43). -/
def cmdReady (s : State) : Bool := !s.port.busy

/-- Logical `stp_pin` (R41): the stop buffer's element while running, else the static level. -/
def stpPin (s : State) : Bool :=
  if s.ctl.running then s.buf.stpBuf.getLsbD s.ctl.cyc.toNat else s.pins.stpLevel

/-- The electrical level on `PIN_STP` (R14). -/
def stpPinLevel (s : State) : Bool := levelOf s.cfg.stpAsserted (stpPin s)

/-- The bit of `data_out` that `PIN_DATA[k]` carries (R65, R149). -/
def dataPin (s : State) (k : Nat) : Bool := s.pins.dataOut.getLsbD k

/-- The hardware reset `rst_n` (R260 to R265): the state of `State.reset`. The platform's parameters and the
environment are not the block's to reset. -/
def hardwareReset (s : State) : State :=
  { State.reset with cfg := s.cfg, env := s.env, inputs := s.inputs, freeCount := s.freeCount }

/-- The engine's part of one instant: a PHY clock cycle steps the channels while they run (R148). -/
def clockEvent (s : State) : Result :=
  if s.env.phyClk && s.ctl.running then engineStep (nxtIn s) s else .next s

/-- The `halt_req` part of one instant, after the engine's (R158, R231). -/
def haltEvent (s : State) : State := if s.env.haltReq then haltAll s else s

/-- The asynchronous events of one instant, in the order of R231: the engine step first, then the halt. -/
def events (s : State) : Result := andThen (clockEvent s) fun s' => .next (haltEvent s')

/-- Go to the next instant: the first of the inputs held in the state, or a free value when none is left (R6). -/
def nextInstant (s : State) : State :=
  match s.inputs with
  | e :: rest => { s with env := e, inputs := rest }
  | [] => { s with env := Config.freeInstant s.freeCount, freeCount := s.freeCount + 1 }

/-- See that an instant is listed: a free value when none is left (R6). -/
def supply (s : State) : State :=
  match s.inputs with
  | _ :: _ => s
  | [] => { s with inputs := [Config.freeInstant s.freeCount], freeCount := s.freeCount + 1 }

/-- A command word whose `op` is reserved (R96): accepted, and completed at once with `IllegalOperation`. -/
def illegalWord (op : BitVec 4) (s : State) : State := raise (.illegalDecode op) (accept s)

end Sys2Proof.Machine
end

