-- ==== Sys2Proof/Machine/Encoder.lean ====
section
/-! DEFINITION. The Bus Transaction Encoder (41_transaction_encoder.md): `ENCODE`. -/

namespace Sys2Proof.Machine

/-- The body of `ENCODE` without its response (R121). -/
def encodeBody (address value : Byte) (s : State) : State :=
  { s with
    tx :=
      { commandByte := commandByteOf address
        valueByte := value
        driveMask := driveMaskWrite
        expectedHandshake := expectedHandshakeWrite }
    buf := { s.buf with
      dataBuf := frame s.cfg.idleCode (commandByteOf address) value
      stpBuf := s.cfg.stpPatternWrite } }

/-- `ENCODE address, value` (R121). An address above `ADDR_MAX` is refused, as R98 and U5 ask. -/
def execEncode (address value : Byte) (s : State) : Result :=
  if addressAdmitted address then
    .next (succeed .ok 0 (encodeBody address value (accept s)))
  else
    .refused (.addressOutsideDomain address)

end Sys2Proof.Machine
end

