-- ==== Sys2Proof/Machine/Expander.lean ====
section
/-! DEFINITION. The Direction Code Expander (40_direction_expander.md): `EXPAND`. -/

namespace Sys2Proof.Machine

/-- The body of `EXPAND` without its response (R111). -/
def expandBody (mask : Mask16) (s : State) : State :=
  { s with tx := { s.tx with driveMask := mask }, buf := { s.buf with dirBuf := expand16 mask } }

/-- `EXPAND mask` (R111): total, no failure. -/
def execExpand (mask : Mask16) (s : State) : Result :=
  .next (succeed .ok 0 (expandBody mask (accept s)))

end Sys2Proof.Machine
end

