-- ==== Sys2Proof/Machine/BringUp.lean ====
section
/-! DEFINITION. The PHY Bring-Up State Machine (44_bringup_fsm.md): the states of `BRING_UP`, and `SHUT_DOWN`. -/

namespace Sys2Proof.Machine

/-- `owner` on entry to `BRING_UP` (R181). -/
def ownersAtBringUp (m : OwnerMap) : OwnerMap :=
  OwnerMap.setAll .session [.reset, .dir, .stp] (OwnerMap.setAll .free (Pin.dataPins ++ [.nxt]) m)

/-- Entry to `ResetAsserted` (R181 to R183). -/
def enterResetAsserted (s : State) : State :=
  { s with
    ctl := { (haltAll s).ctl with configured := false }
    owner := ownersAtBringUp s.owner
    session := { buState := .resetAsserted, buDeadline := now s + s.cfg.tResetHold,
                 envPre := .notRun, envPost := .notRun }
    pins := { (haltAll s).pins with resetOut := false, stpLevel := true }
    inFlight := .bringUpHold }

/-- Entry to `ResetReleased` (R184, R185). -/
def enterResetReleased (s : State) : State :=
  { s with
    session := { s.session with buState := .resetReleased, buDeadline := now s + s.cfg.tSettle }
    pins := { s.pins with resetOut := true }
    inFlight := .bringUpSettle }

/-- Entry to `AwaitingClockStable` after the sanity check "pre" (R186, R187, R193). -/
def enterAwaitingClockStable (s : State) : State :=
  { s with
    session := { s.session with
      buState := .awaitingClockStable
      buDeadline := now s + s.cfg.tClockDeadline
      envPre := if s.cfg.sanityChecks then recordOf s.env.checkPre else s.session.envPre }
    pins := { s.pins with stpLevel := false }
    inFlight := .bringUpPoll }

/-- The session in `Ready`, after the sanity check "post" (R189, R193); `bu_deadline` is any value (R22). -/
def readySession (s : State) : Session :=
  { s.session with
    buState := .ready
    buDeadline := Config.freeDeadline s.freeCount
    envPost := if s.cfg.sanityChecks then recordOf s.env.checkPost else s.session.envPost }

/-- `Ready` (R189). -/
def enterReady (s : State) : State :=
  succeed .ready (envBits (readySession s))
    { s with session := readySession s, owner := s.owner.set .stp .free }

/-- `Failed(ClockStartupTimeout)` (R190); `bu_deadline` is any value (R22). -/
def enterFailed (s : State) : State :=
  raise (.clockStartupTimeout (envBits s.session))
    { s with session := { s.session with
        buState := .failed
        buDeadline := Config.freeDeadline s.freeCount } }

/-- One poll of `AwaitingClockStable` (R188): the pin before the clock. -/
def pollDir (s : State) : State :=
  if dirIn s then
    if s.session.buDeadline ≤ now s then enterFailed s else s
  else
    enterReady s

/-! ### The largest time between two polls (R13, R188; log entry 15)

Every instant of `AwaitingClockStable` is a poll, so the last poll was at the present instant. Levels hold until the
next instant listed. Where that one is more than `POLL_EPS` away the block polls before it: such a poll finds DIR
asserted still, and so changes nothing before the deadline, and times out at the first poll at or past it. -/

/-- What a look between two instants sees: the levels of the earlier one at time `t`, and no event. -/
def held (t : Nat) (e : Instant) : Instant :=
  { e with rstN := true, haltReq := false, cmd := none, phyClk := false, now := t }

/-- When the first poll at or past the deadline falls, in a gap of the schedule: the poll before it was earlier than
the deadline, and at most `POLL_EPS` earlier than this one. -/
def overdueAt (s : State) : Nat :=
  s.session.buDeadline + min (Config.freePollDelay s.freeCount) (s.cfg.pollEps - 1)

/-- The next instant `e` is more than `POLL_EPS` after the last poll, and a poll at or past the deadline is due
before it. The test `deadline + POLL_EPS <= now` is implied by the last one; it is decided without the free value. -/
def pollOverdue (e : Instant) (s : State) : Bool :=
  decide (s.inFlight = .bringUpPoll) && decide (now s + s.cfg.pollEps < e.now)
    && decide (s.session.buDeadline < e.now)
    && (decide (s.session.buDeadline + s.cfg.pollEps ≤ e.now) || decide (overdueAt s < e.now))

/-- The poll that is due before the next instant: one of R188 at a time when the deadline has come
(`overduePoll_eq_pollDir`). -/
def overduePoll (s : State) : State :=
  if dirIn s then enterFailed { s with env := held (overdueAt s) s.env }
  else enterReady { s with env := held (overdueAt s) s.env }

/-- The settle wait (R185); the first poll happens on entering `AwaitingClockStable` (R188). -/
def waitSettle (s : State) : State :=
  if s.session.buDeadline ≤ now s then pollDir (enterAwaitingClockStable s) else s

/-- The reset hold (R183). -/
def waitHold (s : State) : State :=
  if s.session.buDeadline ≤ now s then waitSettle (enterResetReleased s) else s

/-- The body of `SHUT_DOWN` without its response (R196). -/
def shutDownBody (s : State) : State :=
  { s with
    ctl := { (haltAll s).ctl with configured := false }
    pins := (haltAll s).pins
    owner := OwnerMap.release (Pin.dataPins ++ [.nxt, .stp]) s.owner }

/-- `SHUT_DOWN` (R196). -/
def execShutDown (s : State) : Result := .next (succeed .ok 0 (shutDownBody (accept s)))

end Sys2Proof.Machine
end

