-- ==== Sys2Proof/Machine/Validator.lean ====
section
/-! DEFINITION. The Handshake Validator (43_handshake_validator.md): `VALIDATE`. -/

namespace Sys2Proof.Machine

/-- The comparison and its response (R171, R172): all 32 bits. -/
def validateResponse (s : State) : State :=
  if s.buf.capBuf = s.tx.expectedHandshake then
    succeed .ok 0 s
  else
    raise (.handshakeMismatch s.tx.expectedHandshake s.buf.capBuf) s

/-- `VALIDATE` (R171). -/
def execValidate (s : State) : Result := .next (validateResponse (accept s))

end Sys2Proof.Machine
end

