-- ==== Sys2Proof/Machine/Controller.lean ====
section
/-! DEFINITION. The Synchronized Multi-Channel Bus Controller (42_bus_controller.md): `CONFIGURE`, `HALT`, and the
start and the wait of a run. -/

namespace Sys2Proof.Machine

/-! ### CONFIGURE -/

/-- A violation found by `CONFIGURE`: the channel and the sub-cause (R142, R143). -/
abbrev Violation := Option (Chan × SubCause)

/-- The first channel of a list that a test fails, with the sub-cause. -/
def firstBad (cs : List Chan) (cause : SubCause) (good : Chan → Bool) : Violation :=
  match cs with
  | [] => none
  | c :: rest => if good c then firstBad rest cause good else some (c, cause)

/-- The buffer holds `cycle_limit` cycles of the channel's pins, and the direction buffer, if present, two bits a
cycle (R142, sub-cause 4). -/
def bufferHolds (d : Descriptor) : Bool :=
  decide (d.cycleLimit * d.pins.length ≤ 8 * d.bufferLen) &&
    match d.directionBufferLen with
    | none => true
    | some n => decide (2 * d.cycleLimit ≤ 8 * n)

/-- Phase 1: the descriptor invariants in order (R142, R229). -/
def descriptorViolation (d : Descriptors) : Violation :=
  ((firstBad Chan.all .bufLenNotPow2 fun c => isPow2 (d.get c).bufferLen).or
    (firstBad [.stp, .nxt] .cycleLimitMismatch fun c => (d.get c).cycleLimit == d.data.cycleLimit)).or
  ((firstBad Chan.all .dirBufPresence fun c =>
      decide ((d.get c).mode = .bidirectional) == (d.get c).directionBufferLen.isSome).or
    (firstBad Chan.all .bufferTooSmall fun c => bufferHolds (d.get c)))

/-- Phase 2: pin availability (R143). -/
def pinViolation (s : State) : Violation :=
  firstBad Chan.all .pinUnavailable fun c => (s.cfg.desc.get c).pins.all (pinAvailable s)

/-- The one violation `CONFIGURE` reports (R229): descriptors before pins. -/
def configureViolation (s : State) : Violation :=
  (descriptorViolation s.cfg.desc).or (pinViolation s)

/-- Phase 3: commit (R144). -/
def configureCommit (s : State) : State :=
  releaseData
    { s with
      owner := OwnerMap.setAll .controller
        (s.cfg.desc.data.pins ++ s.cfg.desc.stp.pins ++ s.cfg.desc.nxt.pins) s.owner
      ctl := { s.ctl with
        configured := true
        cyc := 0
        runDone := false
        runHalted := false
        chData := programmed s.cfg.desc.data
        chStp := programmed s.cfg.desc.stp
        chNxt := programmed s.cfg.desc.nxt }
      pins := { s.pins with stpLevel := false } }

/-- `CONFIGURE` (R141). -/
def execConfigure (s : State) : Result :=
  match configureViolation (accept s) with
  | some (channel, cause) => .next (raise (.configurationError channel cause) (accept s))
  | none => .next (succeed .ok 0 (configureCommit (accept s)))

/-! ### HALT -/

/-- `HALT` (R156): safe in every state. -/
def execHalt (s : State) : Result := .next (succeed .ok 0 (haltAll (accept s)))

/-! ### The wait of a run -/

/-- Which operation a run belongs to: `RUN`, or step 4 of `WRITE_REGISTER` (R210). -/
inductive RunOf where
  | run | writeRegister
  deriving DecidableEq, Repr

/-- What the block waits for during a run started at `t0`. -/
def RunOf.wait (o : RunOf) (t0 : Nat) : InFlight :=
  match o with
  | .run => .run t0
  | .writeRegister => .writeRun t0

/-- The end of a run that was not timed out: `halt_all()`, which changes nothing after an auto-halt (R153), then
the response of `RUN` (R146), or step 5 of `WRITE_REGISTER` (R210). -/
def finishRun (o : RunOf) (s : State) : State :=
  match o with
  | .run => succeed .ok (runInfo (haltAll s).ctl) (haltAll s)
  | .writeRegister => validateResponse (haltAll s)

/-- One look at the wait of a run started at `t0` (R146, R155): completion before the optional timeout (R231). -/
def waitRun (o : RunOf) (t0 : Nat) (s : State) : State :=
  if s.ctl.running then
    match s.cfg.runTimeout with
    | none => s
    | some t => if t ≤ elapsedSince (now s) t0 then raise .transactionTimeout (haltAll s) else s
  else
    finishRun o s

/-- The start of a run (R146, R147): the trigger, the record of `t0` (R155), and the first look at the wait. -/
def beginRun (o : RunOf) (s : State) : State :=
  waitRun o (now s) (waitFor (o.wait (now s)) (startTrigger s))

end Sys2Proof.Machine
end

