-- ==== Sys2Proof/Machine/Progress.lean ====
section
/-! DEFINITION. How an operation in progress goes on from instant to instant (46_sequencing_access_system.md R201,
R206): the wait of `BRING_UP` and the wait of a run. -/

namespace Sys2Proof.Machine

/-- One look at what the operation in progress waits for. -/
def advance (s : State) : State :=
  match s.inFlight with
  | .idle => s
  | .bringUpHold => waitHold s
  | .bringUpSettle => waitSettle s
  | .bringUpPoll => pollDir s
  | .run t0 => waitRun .run t0 s
  | .writeRun t0 => waitRun .writeRegister t0 s

/-! ### The looks between two instants (log entry 15)

A wait on the Timer ends at its time, whether or not an instant is listed there: the block looks then, and sees the
levels of the instant before. -/

/-- When the wait in progress ends by the Timer: the end of the reset hold (R183) and of the settle delay (R185), the
poll that times out (R188), the end of `RUN_TIMEOUT` (R155). -/
def lookTime (s : State) : Nat :=
  match s.inFlight with
  | .idle => now s
  | .bringUpHold => s.session.buDeadline
  | .bringUpSettle => s.session.buDeadline
  | .bringUpPoll => overdueAt s
  | .run t0 => t0 + s.cfg.runTimeout.getD 0
  | .writeRun t0 => t0 + s.cfg.runTimeout.getD 0

/-- The wait in progress ends by the Timer before the next instant `e`. -/
def lookDue (e : Instant) (s : State) : Bool :=
  s.port.busy &&
    match s.inFlight with
    | .idle => false
    | .bringUpHold => decide (s.session.buDeadline < e.now)
    | .bringUpSettle => decide (s.session.buDeadline < e.now)
    | .bringUpPoll => pollOverdue e s
    | .run t0 => s.cfg.runTimeout.any fun t => decide (t0 + t < e.now)
    | .writeRun t0 => s.cfg.runTimeout.any fun t => decide (t0 + t < e.now)

/-- The look at that time. The poll is written so that it is decided without the free value in its time
(`ownLook_eq`). -/
def ownLook (s : State) : State :=
  if s.inFlight = .bringUpPoll then overduePoll s
  else advance { s with env := held (lookTime s) s.env }

/-- The look that is due before the next instant, if one is. -/
def lookBefore (e : Instant) (s : State) : State := if lookDue e s then ownLook s else s

/-- Every look that is due before the next instant: at most three, the ends of the hold, of the settle delay and of
the polling (`catchUp_done`). -/
def catchUp (e : Instant) (s : State) : State := lookBefore e (lookBefore e (lookBefore e s))

/-! ### Instants -/

/-- One instant `e` while an operation is in progress: the hardware reset (R260), or the events of the instant
(R231) and then a look at the wait. A command presented is not accepted (R36, U13). -/
def tick (e : Instant) (s : State) : Result :=
  if e.rstN then
    andThen (events { s with env := e }) fun s' => .next (advance s')
  else
    .next (hardwareReset { s with env := e })

/-- Take instants until no operation is in progress, or until the inputs held are used up: then the operation is
still in progress, which is how a run whose PHY clock stops is kept (R154, U1). The looks due before an instant come
first; where one of them ends the operation, the instant is still to come. -/
def drain : List Instant → State → Result
  | [], s => .next { s with inputs := [] }
  | e :: es, s =>
    if (catchUp e s).port.busy then
      andThen (tick e (catchUp e s)) fun s' => drain es s'
    else
      .next { catchUp e s with inputs := e :: es }

/-- Go on with the operation in progress over the inputs held in the state. -/
def resume (s : State) : Result := drain s.inputs s

end Sys2Proof.Machine
end

