-- ==== Sys2Proof/Machine/Blocking.lean ====
section
/-! DEFINITION. The operations that wait on the environment: `BRING_UP` (44_bringup_fsm.md), `RUN`
(42_bus_controller.md) and `WRITE_REGISTER` (45_register_write.md). -/

namespace Sys2Proof.Machine

/-- `BRING_UP` (R180): always from `ResetAsserted`, in any state (R181). -/
def execBringUp (s : State) : Result := resume (waitHold (enterResetAsserted (accept s)))

/-- `RUN` (R146). With descriptors other than the reference table there is no rule, and U12 asks for a refusal. -/
def execRun (s : State) : Result :=
  if s.ctl.configured then
    if referenceRunnable s then
      resume (beginRun .run (accept s))
    else
      .refused .noRunRuleForDescriptors
  else
    .next (raise .illegalRun (accept s))

/-- `EXPAND drive_mask`, the operand being the register (R210, step 3). -/
def expandStored (s : State) : State := expandBody s.tx.driveMask s

/-- Steps 1 to 3 of `WRITE_REGISTER` after the checks of `CONFIGURE` (R210). -/
def prepareWrite (address value : Byte) (s : State) : State :=
  expandStored (encodeBody address value (configureCommit s))

/-- `WRITE_REGISTER address, value` (R210): five steps under one `busy` period, with early exit (R211). -/
def execWriteRegister (address value : Byte) (s : State) : Result :=
  if addressAdmitted address then
    match configureViolation (accept s) with
    | some (channel, cause) => .next (raise (.configurationError channel cause) (accept s))
    | none =>
      if referenceRunnable (prepareWrite address value (accept s)) then
        resume (beginRun .writeRegister (prepareWrite address value (accept s)))
      else
        .refused .noRunRuleForDescriptors
  else
    .refused (.addressOutsideDomain address)

end Sys2Proof.Machine
end

