-- ==== Sys2Proof/Machine/Dispatch.lean ====
section
/-! DEFINITION. The meaning of every operation, one arm per row of the opcode table (30_encoding.md R95). -/

namespace Sys2Proof.Machine

def exec (i : Instr) (s : State) : Host.Outcome State Fault Refusal :=
  match i with
  | .bringUp => Sys2Proof.Machine.execBringUp s
  | .shutDown => Sys2Proof.Machine.execShutDown s
  | .writeRegister address value => Sys2Proof.Machine.execWriteRegister address value s
  | .configure => Sys2Proof.Machine.execConfigure s
  | .encode address value => Sys2Proof.Machine.execEncode address value s
  | .expand mask => Sys2Proof.Machine.execExpand mask s
  | .run => Sys2Proof.Machine.execRun s
  | .halt => Sys2Proof.Machine.execHalt s
  | .validate => Sys2Proof.Machine.execValidate s

end Sys2Proof.Machine
end

