-- ==== Sys2Proof/Machine/Step.lean ====
section
/-! DEFINITION. One step of the machine: the next instant, its events, and the operation it starts or carries on
(10_state.md R36, R43; 60_exceptions.md R231; 70_reset_and_hazards.md R260). -/

namespace Sys2Proof.Machine

/-- What the block does with the command port when no operation is in progress (R43, R96, R200). -/
def issue (s : State) : Host.Outcome State Fault Refusal :=
  match s.env.cmd with
  | none => .next s
  | some w =>
    match decode w with
    | .ok i => exec i s
    | .error (.reservedOp op) => .next (illegalWord op s)

/-- One step. A block with an operation in progress goes on with it. Otherwise the next instant comes: a hardware
reset resets the block, and without one the events of the instant happen and the command port is looked at. -/
def step (s : State) : Host.Outcome State Fault Refusal :=
  if s.port.busy then
    resume (supply s)
  else if (nextInstant s).env.rstN then
    andThen (events (nextInstant s)) issue
  else
    .next (hardwareReset (nextInstant s))

/-- `s` with the command word of the table's bits `w` presented at the next instant, to a port that is ready: the
other inputs of that instant are as at present, with no halt request, no reset and no PHY clock cycle. -/
def State.withFetchWord (s : State) (nbits w : Nat) : State :=
  { s with
    port := { s.port with busy := false }
    inFlight := .idle
    inputs :=
      { s.env with rstN := true, haltReq := false, phyClk := false, cmd := tableWord nbits w } :: s.inputs }

end Sys2Proof.Machine
end

