-- ==== Sys2Proof/Safety.lean ====
section
/-! DEFINITION. The terms the claims use: what the environment does over a list of instants, what a response says,
the checks of `CONFIGURE` as the spec lists them, the trace of a run on the pins, and the invariant of the block. -/

namespace Sys2Proof.Machine

/-! ### The environment over a list of instants -/

/-- Neither a hardware reset nor a halt request falls in the instant. -/
def quiet (e : Instant) : Bool := e.rstN && !e.haltReq

/-- How many PHY clock cycles fall in the instants. -/
def clockCycles (es : List Instant) : Nat := es.countP (·.phyClk)

/-- The logical NXT samples of the PHY clock cycles of the instants, in order (42_bus_controller.md R151, R160). -/
def nxtSamples (p : Params) (es : List Instant) : List Bool :=
  (es.filter (·.phyClk)).map fun e => logicalOf p.nxtAsserted e.nxtPin

/-- Bit `i` of `w` is the `i`-th of the samples, and 0 where there is none (R160). -/
def holdsSamples (w : Word32) (ns : List Bool) : Prop :=
  ∀ i < 32, w.getLsbD i = (ns[i]?).getD false

/-- No look at the wait of a run started at `t0` finds `RUN_TIMEOUT` expired (R155). -/
def noTimeout (p : Params) (t0 : Nat) (es : List Instant) : Prop :=
  ∀ t, p.runTimeout = some t → 0 < t ∧ ∀ e ∈ es, e.now - t0 < t

/-- The instant is not past the end of `RUN_TIMEOUT` for a run started at `t0` (R155). -/
def byTimeout (p : Params) (t0 : Nat) (e : Instant) : Prop := ∀ t, p.runTimeout = some t → e.now ≤ t0 + t

/-- What is seen at time `t`, from the instant `x` on with `es` to come, and what is still to come after it: an
instant at that time, or the levels of the last instant before it where the next one is later (log entry 15). `none`
where the list ends before. -/
def firstLook (t : Nat) (x : Instant) : List Instant → Option (Instant × List Instant)
  | [] => if t ≤ x.now then some (x, []) else none
  | e :: es =>
    if t ≤ x.now then some (x, e :: es)
    else if t < e.now then some (held t x, e :: es)
    else firstLook t e es

/-- Logical DIR at an instant (10_state.md R42). -/
def dirAt (p : Params) (e : Instant) : Bool := logicalOf p.dirAsserted e.dirPin

/-! ### Responses -/

/-- The operation has ended with this response (R206, R233; 30_encoding.md R88 to R90). -/
def Responded (code : BitVec 4) (stage : BitVec 3) (info : Byte) (t : State) : Prop :=
  t.port.busy = false ∧ t.port.rspValid = true ∧ t.port.rspCode = code ∧ t.port.rspStage = stage ∧
    t.port.rspInfo = info ∧ t.inFlight = .idle

/-- Nothing but the response registers differs (and the count of free values): 60_exceptions.md R234. -/
def OnlyResponseDiffers (s t : State) : Prop :=
  t.cfg = s.cfg ∧ t.session = s.session ∧ t.tx = s.tx ∧ t.buf = s.buf ∧ t.ctl = s.ctl ∧ t.pins = s.pins ∧
    t.owner = s.owner ∧ t.env = s.env ∧ t.inputs = s.inputs

/-- The two states differ in the command word last presented at most. -/
def AgreeButTheCommand (s t : State) : Prop := t = { s with env := { s.env with cmd := t.env.cmd } }

/-- What the hardware reset leaves, in the fields that the spec gives a value (70_reset_and_hazards.md R261 to R263,
R265), with no operation in progress (R266). That `PIN_CLK` is `Free` is log entry 17. -/
def AfterReset (t : State) : Prop :=
  t.ctl.configured = false ∧ t.ctl.running = false ∧ t.ctl.cyc = 0 ∧ t.ctl.runDone = false ∧
  t.ctl.runHalted = false ∧ t.port.busy = false ∧ cmdReady t = true ∧ t.port.rspValid = false ∧
  t.inFlight = .idle ∧
  t.session.buState = .resetAsserted ∧ t.session.envPre = .notRun ∧ t.session.envPost = .notRun ∧
  t.pins.resetOut = false ∧ t.pins.stpLevel = true ∧ stpPin t = true ∧
  t.pins.dataOe0 = false ∧ t.pins.dataOe1 = false ∧
  (∀ p, t.owner.get p = if p ∈ [Pin.reset, .dir, .stp] then .session else .free)

/-- A run started at `s` has been timed out after the instants `es` (42_bus_controller.md R155): the response, `cyc`
and the capture as the halt left them, and everything else. -/
def TimedOut (s : State) (es : List Instant) (t : State) : Prop :=
  Responded 5 4 0 t ∧
  t.ctl = { s.ctl with
    running := false, cyc := BitVec.ofNat 4 (clockCycles es), runDone := false, runHalted := true } ∧
  holdsSamples t.buf.capBuf (nxtSamples s.cfg es) ∧
  t.buf.dataBuf = s.buf.dataBuf ∧ t.buf.dirBuf = s.buf.dirBuf ∧ t.buf.stpBuf = s.buf.stpBuf ∧
  t.pins.dataOe0 = false ∧ t.pins.dataOe1 = false ∧ t.pins.resetOut = s.pins.resetOut ∧
  t.pins.stpLevel = s.pins.stpLevel ∧
  t.session = s.session ∧ t.tx = s.tx ∧ t.owner = s.owner ∧ t.cfg = s.cfg

/-! ### The delays of BRING_UP -/

/-- The reset hold of `s` has ended at its deadline, and the settle delay begins (44_bringup_fsm.md R184, R185). -/
def SettleBegins (s u : State) : Prop :=
  u.env.now = s.session.buDeadline ∧ u.port = s.port ∧ u.inFlight = .bringUpSettle ∧
    u.session = { s.session with
      buState := .resetReleased, buDeadline := s.session.buDeadline + s.cfg.tSettle } ∧
    u.pins = { s.pins with resetOut := true } ∧ u.owner = s.owner ∧ u.ctl = s.ctl ∧ u.tx = s.tx ∧ u.buf = s.buf

/-- The settle delay of `s` has ended at its deadline, and the first poll has found logical DIR `dir`: the polling goes
on, or it is over (44_bringup_fsm.md R186 to R189). -/
def PollingBegins (s : State) (dir : Bool) (u : State) : Prop :=
  u.env.now = s.session.buDeadline ∧ u.pins = { s.pins with stpLevel := false } ∧ u.ctl = s.ctl ∧ u.tx = s.tx ∧
    u.buf = s.buf ∧
    (dir = true → u.port = s.port ∧ u.inFlight = .bringUpPoll ∧ u.owner = s.owner ∧
      u.session.buState = .awaitingClockStable ∧
      u.session.buDeadline = s.session.buDeadline + s.cfg.tClockDeadline) ∧
    (dir = false → u.port.busy = false ∧ u.port.rspCode = 1 ∧ u.session.buState = .ready ∧ u.owner.stp = .free)

/-! ### CONFIGURE -/

/-- `bind(p)` does not answer `PinUnavailable` (R143, R244). -/
def PinBindable (s : State) (p : Pin) : Prop := p ∉ s.env.unavailable ∧ s.owner.get p ≠ .session

/-- Sub-cause 4 does not apply to a descriptor (R142). -/
def BufferFits (d : Descriptor) : Prop :=
  d.cycleLimit * d.pins.length ≤ 8 * d.bufferLen ∧
    ∀ n, d.directionBufferLen = some n → 2 * d.cycleLimit ≤ 8 * n

/-- The checks of `CONFIGURE` in their order, each with the `rsp_info` of its violation (R142, R143, R229, R90). -/
def configureChecks (s : State) : List (Prop × Byte) :=
  [ (∃ k, s.cfg.desc.data.bufferLen = 2 ^ k, 0x01),
    (∃ k, s.cfg.desc.stp.bufferLen = 2 ^ k, 0x09),
    (∃ k, s.cfg.desc.nxt.bufferLen = 2 ^ k, 0x11),
    (s.cfg.desc.stp.cycleLimit = s.cfg.desc.data.cycleLimit, 0x0A),
    (s.cfg.desc.nxt.cycleLimit = s.cfg.desc.data.cycleLimit, 0x12),
    (s.cfg.desc.data.mode = .bidirectional ↔ s.cfg.desc.data.directionBufferLen ≠ none, 0x03),
    (s.cfg.desc.stp.mode = .bidirectional ↔ s.cfg.desc.stp.directionBufferLen ≠ none, 0x0B),
    (s.cfg.desc.nxt.mode = .bidirectional ↔ s.cfg.desc.nxt.directionBufferLen ≠ none, 0x13),
    (BufferFits s.cfg.desc.data, 0x04),
    (BufferFits s.cfg.desc.stp, 0x0C),
    (BufferFits s.cfg.desc.nxt, 0x14),
    (∀ p ∈ s.cfg.desc.data.pins, PinBindable s p, 0x05),
    (∀ p ∈ s.cfg.desc.stp.pins, PinBindable s p, 0x0D),
    (∀ p ∈ s.cfg.desc.nxt.pins, PinBindable s p, 0x15) ]

/-- The platform has the reference table, with a `CYCLE_LIMIT` that its buffers hold (R30, R61). -/
def ReferencePlatform (p : Params) : Prop := p.desc = p.reference ∧ 1 ≤ p.cycleLimit ∧ p.cycleLimit ≤ 8

/-- The programmed copies equal the descriptors (10_state.md R31). -/
def ChannelsProgrammed (s : State) : Prop :=
  s.ctl.chData = programmed s.cfg.desc.data ∧ s.ctl.chStp = programmed s.cfg.desc.stp ∧
    s.ctl.chNxt = programmed s.cfg.desc.nxt

/-- Every pin of the reference table can be bound: the controller phase with all pins available (R238, R244). -/
def AllPinsBindable (s : State) : Prop := ∀ p ∈ Pin.dataPins ++ [.stp, .nxt], PinBindable s p

/-! ### The pins of a run -/

/-- What one cycle of a run shows on the pins, and the sample it takes (R160). -/
structure PinCycle where
  data : Byte
  oe0 : Bool
  oe1 : Bool
  stp : Bool
  nxt : Bool
  deriving DecidableEq, Repr

/-- Cycle `k` of a run over these buffers. -/
def pinCycle (b : Buffers) (k : Fin 8) : PinCycle where
  data := b.dataBuf[k]
  oe0 := b.dirBuf.getLsbD (2 * k.val)
  oe1 := b.dirBuf.getLsbD (2 * k.val + 1)
  stp := b.stpBuf.getLsbD k.val
  nxt := b.capBuf.getLsbD k.val

/-- The pin trace of the last run, read from the buffers it left: the elements of the cycles below `cyc` (R160). -/
def pinTrace (s : State) : List PinCycle :=
  ((List.finRange 8).filter fun k => decide (k.val < s.ctl.cyc.toNat)).map (pinCycle s.buf)

/-! ### The invariant -/

/-- What holds of the block between steps. -/
structure BlockInv (s : State) : Prop where
  /-- `busy = 1` exactly while an operation is in progress (R36). -/
  busy_iff : s.port.busy = true ↔ s.inFlight ≠ .idle
  /-- A run is in progress exactly while the channels run (R32, R38). -/
  running_iff : s.ctl.running = true ↔ ∃ t0, s.inFlight = .run t0 ∨ s.inFlight = .writeRun t0
  /-- Only configured channels with the reference table run, within the buffers (R61, R146, R275). -/
  running_within : s.ctl.running = true →
    s.ctl.configured = true ∧ ReferencePlatform s.cfg ∧ s.ctl.cyc.toNat < s.cfg.cycleLimit
  /-- While running the data pins carry the element of cycle `cyc` (R41, R149, R150, R154). -/
  running_presents : s.ctl.running = true → ∀ k : Fin 8, k.val = s.ctl.cyc.toNat →
    s.pins.dataOut = s.buf.dataBuf[k] ∧ s.pins.dataOe0 = s.buf.dirBuf.getLsbD (2 * k.val) ∧
      s.pins.dataOe1 = s.buf.dirBuf.getLsbD (2 * k.val + 1)
  /-- While not running the data pins are released (R161). -/
  idle_released : s.ctl.running = false → s.pins.dataOe0 = false ∧ s.pins.dataOe1 = false
  /-- The capture holds nothing at or above `cyc` during a run (R151). -/
  capture_above : s.ctl.running = true → ∀ i, s.ctl.cyc.toNat ≤ i → s.buf.capBuf.getLsbD i = false
  /-- The cycle counter never passes `CYCLE_LIMIT` (R33). -/
  cyc_le : s.ctl.cyc.toNat ≤ s.cfg.cycleLimit
  /-- A run that is done shifted every cycle, and was not halted (R34, R35). -/
  done_full : s.ctl.runDone = true →
    s.ctl.running = false ∧ s.ctl.runHalted = false ∧ s.ctl.cyc.toNat = s.cfg.cycleLimit
  /-- A run in progress has not been halted (R35). -/
  running_not_halted : s.ctl.running = true → s.ctl.runHalted = false
  /-- While configured the programmed copies equal the descriptors, whose pins the controller owns (R31, R37). -/
  configured_owns : s.ctl.configured = true → ChannelsProgrammed s ∧
    ∀ p ∈ s.cfg.desc.data.pins ++ s.cfg.desc.stp.pins ++ s.cfg.desc.nxt.pins, s.owner.get p = .controller
  /-- The session owns the reset and the direction pin always (R37). -/
  session_pins : s.owner.reset = .session ∧ s.owner.dir = .session
  /-- The session owns the stop pin exactly until `Ready` (R37, R238). -/
  stp_session_iff : s.owner.stp = .session ↔ s.session.buState ≠ .ready
  /-- Once handed over the stop pin is idle (R161). -/
  stp_idle : s.owner.stp ≠ .session → s.pins.stpLevel = false
  /-- During `BRING_UP` the controller is not configured (R181). -/
  bringUp_unconfigured :
    (s.inFlight = .bringUpHold ∨ s.inFlight = .bringUpSettle ∨ s.inFlight = .bringUpPoll) →
      s.ctl.configured = false
  /-- The reset hold: state and pin levels (R182, R183). -/
  hold_state : s.inFlight = .bringUpHold →
    s.session.buState = .resetAsserted ∧ s.pins.resetOut = false ∧ s.pins.stpLevel = true
  /-- The settle wait: state and pin levels (R184, R185). -/
  settle_state : s.inFlight = .bringUpSettle →
    s.session.buState = .resetReleased ∧ s.pins.resetOut = true ∧ s.pins.stpLevel = true
  /-- The poll: state and pin levels (R186 to R188). -/
  poll_state : s.inFlight = .bringUpPoll →
    s.session.buState = .awaitingClockStable ∧ s.pins.resetOut = true ∧ s.pins.stpLevel = false
  /-- The reset hold and the settle delay last until their deadline and no longer (R183, R185). -/
  delay_waits : (s.inFlight = .bringUpHold ∨ s.inFlight = .bringUpSettle) → now s < s.session.buDeadline
  /-- A run in progress has not reached `RUN_TIMEOUT` (R155). -/
  run_waits : ∀ t0 t, (s.inFlight = .run t0 ∨ s.inFlight = .writeRun t0) → s.cfg.runTimeout = some t →
    now s - t0 < t
  /-- `AwaitingClockStable` waits while DIR is asserted and the deadline has not come (R188). -/
  poll_waits : s.inFlight = .bringUpPoll → dirIn s = true ∧ now s < s.session.buDeadline
  /-- Outside `BRING_UP` the session is in one of three states (R192, R206). -/
  rest_state :
    (s.inFlight ≠ .bringUpHold ∧ s.inFlight ≠ .bringUpSettle ∧ s.inFlight ≠ .bringUpPoll) →
      s.session.buState = .resetAsserted ∨ s.session.buState = .ready ∨ s.session.buState = .failed
  /-- The PHY is out of reset in `Ready` and in `Failed` (R189, R190), and in reset in `ResetAsserted` (R182). -/
  reset_level :
    ((s.session.buState = .ready ∨ s.session.buState = .failed) → s.pins.resetOut = true) ∧
      (s.session.buState = .resetAsserted → s.pins.resetOut = false)
  /-- A response has one of the codes 0 to 6 and never stage 2 or 3 (R88, R89). -/
  response_codes : s.port.rspValid = true →
    s.port.rspCode.toNat ≤ 6 ∧ s.port.rspStage ≠ 2 ∧ s.port.rspStage ≠ 3
  /-- A response stands only when no operation is in progress (R44, R206). -/
  response_idle : s.port.rspValid = true → s.port.busy = false

end Sys2Proof.Machine
end

