-- ==== Sys2Proof/Certificates/Slice0/Obligations.lean ====
section
/-! DEFINITION. The statements for the provers, one `def Obligations.<Name> : Prop` each, in the order of
OBLIGATIONS.json. Each docstring names the rules it comes from; where a clause is the model's own choice it says so
and names the log entry (notes/assumptions/<n>.md). -/

open Sys2Proof Sys2Proof.Machine

/-! ### Encoding -/

/-- Decoding the canonical word of a well-formed operation gives the operation back, with every operand
(30_encoding.md R80, R81, R93, R95). -/
def Obligations.DecodeOfEncodeGivesTheInstr : Prop :=
  ∀ i : Instr, i.wellFormed = true → decode (encode i) = .ok i

/-- A word that decodes keeps its `op` when encoded again; the words of classes AV and M come back bit for bit, and
those of class N with `a` and `d` cleared (30_encoding.md R81, R97, R100). -/
def Obligations.EncodeOfDecodeGivesTheCanonicalWord : Prop :=
  ∀ (w : Cmd20) (i : Instr), decode w = .ok i →
    opField (encode i) = opField w ∧
    (w.extractLsb' 16 4 ∈ [3#4, 5#4, 6#4] → encode i = w) ∧
    (w.extractLsb' 16 4 ∉ [3#4, 5#4, 6#4] → encode i = w &&& 0xF0000#20)

/-- R97: in class N any value of `a` and `d` selects the same operation, and the canonical word has them 0. -/
def Obligations.ClassNIgnoresItsOperandFields : Prop :=
  ∀ i ∈ [Instr.bringUp, .shutDown, .configure, .run, .halt, .validate],
    (∀ w : Cmd20, w.extractLsb' 16 4 = (encode i).extractLsb' 16 4 → decode w = .ok i) ∧
    (encode i).extractLsb' 0 16 = 0#16

/-- R93: `address` is bits 15:8, `value` bits 7:0, `mask` bits 15:0, none extended, shifted or scaled. -/
def Obligations.OperandsAreTheFieldsOfTheWord : Prop :=
  ∀ w : Cmd20,
    (w.extractLsb' 16 4 = 3#4 → decode w = .ok (.writeRegister (w.extractLsb' 8 8) (w.extractLsb' 0 8))) ∧
    (w.extractLsb' 16 4 = 5#4 → decode w = .ok (.encode (w.extractLsb' 8 8) (w.extractLsb' 0 8))) ∧
    (w.extractLsb' 16 4 = 6#4 → decode w = .ok (.expand (w.extractLsb' 0 16)))

/-- Words written out from the opcode map decode to the operations they stand for (30_encoding.md R95 and the words
of 95_test_vectors.md section 10). -/
def Obligations.WordsOfTheOpcodeMapDecode : Prop :=
  decode 0b0001_00000000_00000000#20 = .ok .bringUp ∧
  decode 0b0010_00000000_00000000#20 = .ok .shutDown ∧
  decode 0b0011_00111010_00000010#20 = .ok (.writeRegister 0x3A 0x02) ∧
  decode 0b0100_00000000_00000000#20 = .ok .configure ∧
  decode 0b0101_00111010_00000010#20 = .ok (.encode 0x3A 0x02) ∧
  decode 0b0110_00000000_01111110#20 = .ok (.expand 0x007E) ∧
  decode 0b0111_11111111_11111111#20 = .ok .run ∧
  decode 0b1000_00000000_00000000#20 = .ok .halt ∧
  decode 0b1001_00000000_00000000#20 = .ok .validate ∧
  decode 0#20 = .error (.reservedOp 0)

/-- R96: `op` 0 and 10 to 15 select no operation, and no other value is reserved; a word with a reserved `op` is
accepted by a ready port, changes nothing but the response registers, and completes at once with
`IllegalOperation`, stage `Decode` and the `op` in `rsp_info`. -/
def Obligations.ReservedOpCompletesAsIllegalOperation : Prop :=
  (∀ w : Cmd20, (w.extractLsb' 16 4 = 0#4 ∨ 10#4 ≤ w.extractLsb' 16 4) ↔ ∀ i, decode w ≠ .ok i) ∧
  ∀ (s : State) (e : Instant) (rest : List Instant) (w : Cmd20),
    s.port.busy = false → s.ctl.running = false → s.inputs = e :: rest →
    e.rstN = true → e.haltReq = false → e.cmd = some w →
    (w.extractLsb' 16 4 = 0#4 ∨ 10#4 ≤ w.extractLsb' 16 4) →
    ∃ t, step s = .next t ∧ Responded 6 7 ((w.extractLsb' 16 4).zeroExtend 8) t ∧
      OnlyResponseDiffers { s with env := e, inputs := rest } t

/-! ### Direction Code Expander -/

/-- R112: bits `2i` and `2i+1` of `expand16(m)` are bit `i` of `m`, and the code is the sum of `m[i] * 3 * 4^i`. -/
def Obligations.ExpansionDoublesEveryBit : Prop :=
  ∀ m : Mask16,
    (∀ i < 16, (expand16 m).getLsbD (2 * i) = m.getLsbD i ∧ (expand16 m).getLsbD (2 * i + 1) = m.getLsbD i) ∧
    (expand16 m).toNat = ((List.range 16).map fun i => (if m.getLsbD i then 1 else 0) * 3 * 4 ^ i).sum

/-- R114: each pair of code bits is `11` or `00`. -/
def Obligations.BothSubPhasesAgree : Prop :=
  ∀ (m : Mask16), ∀ i < 16,
    ((expand16 m).extractLsb' (2 * i) 2 = 0b11#2 ∨ (expand16 m).extractLsb' (2 * i) 2 = 0b00#2) ∧
    (expand16 m).extractLsb' (2 * i) 2 ≠ 0b01#2 ∧ (expand16 m).extractLsb' (2 * i) 2 ≠ 0b10#2

/-- R115: expansion is injective, each output pair depends on its own input bit alone, pairs stand in the order of
their cycles, and the order of masks as unsigned numbers is kept. -/
def Obligations.ExpansionIsInjectiveAndOrdered : Prop :=
  (∀ m1 m2 : Mask16, expand16 m1 = expand16 m2 → m1 = m2) ∧
  (∀ (m1 m2 : Mask16), ∀ i < 16, m1.getLsbD i = m2.getLsbD i →
    (expand16 m1).extractLsb' (2 * i) 2 = (expand16 m2).extractLsb' (2 * i) 2) ∧
  (∀ (m : Mask16), ∀ i j, i < j → j < 16 → m.getLsbD i = true → m.getLsbD j = true →
    ((expand16 m &&& (3#32 <<< (2 * i))).toNat < (expand16 m &&& (3#32 <<< (2 * j))).toNat)) ∧
  (∀ m1 m2 : Mask16, m1 < m2 → expand16 m1 < expand16 m2)

/-- R116: the arithmetic laws of the expansion. -/
def Obligations.ExpansionLaws : Prop :=
  (∀ a b : Mask16, expand16 (a ||| b) = expand16 a ||| expand16 b) ∧
  (∀ a b : Mask16, expand16 (a &&& b) = expand16 a &&& expand16 b) ∧
  (∀ a : Mask16, expand16 (~~~a) = ~~~(expand16 a)) ∧
  expand16 0 = 0 ∧
  (∀ a : Mask16, (List.range 32).countP (fun i => (expand16 a).getLsbD i)
    = 2 * (List.range 16).countP (fun i => a.getLsbD i)) ∧
  (∀ a : Mask16, ∀ i < 16, a.getLsbD i = (expand16 a).getLsbD (2 * i)) ∧
  (∀ a : Mask16, a < 0x8000 → expand16 (a <<< 1) = expand16 a <<< 2)

/-- `EXPAND` always completes with `Ok`: `drive_mask` is the mask, `dir_buf` its code, and nothing else changes
(40_direction_expander.md R111). -/
def Obligations.ExpandStoresMaskAndCode : Prop :=
  ∀ (m : Mask16) (s : State), ∃ t, exec (.expand m) s = .next t ∧ Responded 0 0 0 t ∧
    t.tx = { s.tx with driveMask := m } ∧
    t.buf.dataBuf = s.buf.dataBuf ∧ t.buf.stpBuf = s.buf.stpBuf ∧ t.buf.capBuf = s.buf.capBuf ∧
    (∀ i < 32, t.buf.dirBuf.getLsbD i = m.getLsbD (i / 2)) ∧
    t.session = s.session ∧ t.ctl = s.ctl ∧ t.pins = s.pins ∧ t.owner = s.owner ∧ t.cfg = s.cfg ∧
    t.env = s.env ∧ t.inputs = s.inputs

/-! ### Bus Transaction Encoder -/

/-- R94 and R124: the command byte is `0x80 | address` at 8 bits: `10aaaaaa` for an admitted address, the sum for
an address up to `0x7F`, and `0xBA` for `0x3A`. -/
def Obligations.CommandByteIsTheOrWithTheOpcodeBit : Prop :=
  (∀ a : Byte, commandByteOf a = 0x80#8 ||| a) ∧
  (∀ a : Byte, a ≤ 0x3F#8 → commandByteOf a = 0b10#2 ++ a.extractLsb' 0 6) ∧
  (∀ a : Byte, a ≤ 0x7F#8 → (commandByteOf a).toNat = 0x80 + a.toNat) ∧
  commandByteOf 0x3A = 0xBA

/-- `ENCODE` of an admitted address completes with `Ok` and writes the command and value bytes, the frame, the drive
mask, the stop pattern and the expected handshake, and nothing else (41_transaction_encoder.md R121). -/
def Obligations.EncodeWritesTheTransaction : Prop :=
  ∀ (a v : Byte) (s : State), a ≤ 0x3F#8 → ∃ t, exec (.encode a v) s = .next t ∧ Responded 0 0 0 t ∧
    t.tx.commandByte = 0x80#8 ||| a ∧ t.tx.valueByte = v ∧ t.tx.driveMask = 0x007E#16 ∧
    t.tx.expectedHandshake = 0x00000030#32 ∧
    t.buf.dataBuf.toList =
      [s.cfg.idleCode, 0x80#8 ||| a, 0x80#8 ||| a, 0x80#8 ||| a, v,
        s.cfg.idleCode, s.cfg.idleCode, s.cfg.idleCode] ∧
    t.buf.stpBuf = s.cfg.stpPatternWrite ∧ t.buf.dirBuf = s.buf.dirBuf ∧ t.buf.capBuf = s.buf.capBuf ∧
    t.session = s.session ∧ t.ctl = s.ctl ∧ t.pins = s.pins ∧ t.owner = s.owner ∧ t.cfg = s.cfg ∧
    t.env = s.env ∧ t.inputs = s.inputs

/-- R98: an address above `0x3F` is refused by `ENCODE` and `WRITE_REGISTER`; `0x80 | address` would set bit 6 of
the command byte, or has lost bit 7 of the address in the opcode bit. -/
def Obligations.AddressAboveTheDomainIsRefused : Prop :=
  ∀ (a v : Byte) (s : State), 0x40#8 ≤ a →
    exec (.encode a v) s = .refused (.addressOutsideDomain a) ∧
    exec (.writeRegister a v) s = .refused (.addressOutsideDomain a) ∧
    commandByteOf a = 0x80#8 ||| a ∧
    ((commandByteOf a).getLsbD 6 = true ∨ a.getLsbD 7 = true ∧ commandByteOf a = a)

/-- R129: two `ENCODE` operations with equal operands leave equal registers and buffers, whatever was there
before. -/
def Obligations.EqualOperandsEncodeEqualFrames : Prop :=
  ∀ (a v : Byte) (s1 s2 : State), a ≤ 0x3F#8 → s1.cfg = s2.cfg →
    ∃ t1 t2, exec (.encode a v) s1 = .next t1 ∧ exec (.encode a v) s2 = .next t2 ∧
      t1.tx = t2.tx ∧ t1.buf.dataBuf = t2.buf.dataBuf ∧ t1.buf.stpBuf = t2.buf.stpBuf

/-- R130: only `command_byte`, `value_byte` and `data_buf[1..4]` depend on the operands of `ENCODE`. -/
def Obligations.OnlyTheCommandAndValueDependOnTheOperands : Prop :=
  ∀ (a v a' v' : Byte) (s1 s2 : State), a ≤ 0x3F#8 → a' ≤ 0x3F#8 → s1.cfg = s2.cfg →
    ∃ t1 t2, exec (.encode a v) s1 = .next t1 ∧ exec (.encode a' v') s2 = .next t2 ∧
      t1.buf.dataBuf[0] = t2.buf.dataBuf[0] ∧ t1.buf.dataBuf[5] = t2.buf.dataBuf[5] ∧
      t1.buf.dataBuf[6] = t2.buf.dataBuf[6] ∧ t1.buf.dataBuf[7] = t2.buf.dataBuf[7] ∧
      t1.tx.driveMask = t2.tx.driveMask ∧ t1.buf.stpBuf = t2.buf.stpBuf ∧
      t1.tx.expectedHandshake = t2.tx.expectedHandshake

/-- The frame as the pins show it: over the buffers left by `ENCODE address, value` and `EXPAND 0x007E`, with the
default stop pattern, the eight cycles carry the bytes, enables and stop levels of the write frame
(41_transaction_encoder.md R131; 30_encoding.md R83). -/
def Obligations.EncodeThenExpandShowsTheWriteFrame : Prop :=
  ∀ (a v : Byte) (s : State), a ≤ 0x3F#8 → s.cfg.stpPatternWrite = 0x00000020#32 →
    ∃ t u, exec (.encode a v) s = .next t ∧ exec (.expand 0x007E) t = .next u ∧
      ((List.finRange 8).map fun k => (pinCycle u.buf k).data) =
        [s.cfg.idleCode, 0x80#8 ||| a, 0x80#8 ||| a, 0x80#8 ||| a, v,
          s.cfg.idleCode, s.cfg.idleCode, s.cfg.idleCode] ∧
      ((List.finRange 8).map fun k => (pinCycle u.buf k).oe0) =
        [false, true, true, true, true, true, true, false] ∧
      ((List.finRange 8).map fun k => (pinCycle u.buf k).oe1) =
        [false, true, true, true, true, true, true, false] ∧
      ((List.finRange 8).map fun k => (pinCycle u.buf k).stp) =
        [false, false, false, false, false, true, false, false]

/-! ### Controller -/

/-- R229: `CONFIGURE` reports the first of its checks that fails, in the order buffer lengths, cycle limits,
direction buffers, capacities, pins, each over the channels in order, and changes nothing but the response
registers. -/
def Obligations.ConfigureReportsTheFirstFailedCheck : Prop :=
  ∀ (s : State) (held later : List (Prop × Byte)) (failed : Prop) (info : Byte),
    configureChecks s = held ++ (failed, info) :: later → (∀ c ∈ held, c.1) → ¬ failed →
    ∃ t, exec .configure s = .next t ∧ Responded 2 1 info t ∧ OnlyResponseDiffers s t

/-- `CONFIGURE` with every check holding completes with `Ok`: it takes the pins of the descriptors, programs the
channels, clears the run flags and leaves the pins idle, and nothing else changes (42_bus_controller.md R141 to
R144). -/
def Obligations.ConfigureCommitsWhenEveryCheckHolds : Prop :=
  ∀ s : State, (∀ c ∈ configureChecks s, c.1) →
    ∃ t, exec .configure s = .next t ∧ Responded 0 0 0 t ∧
      t.ctl.configured = true ∧ t.ctl.running = s.ctl.running ∧ t.ctl.cyc = 0 ∧ t.ctl.runDone = false ∧
      t.ctl.runHalted = false ∧ ChannelsProgrammed t ∧
      (∀ p, t.owner.get p =
        if p ∈ s.cfg.desc.data.pins ++ s.cfg.desc.stp.pins ++ s.cfg.desc.nxt.pins then .controller
        else s.owner.get p) ∧
      t.pins = { s.pins with stpLevel := false, dataOe0 := false, dataOe1 := false } ∧
      t.session = s.session ∧ t.tx = s.tx ∧ t.buf = s.buf ∧ t.cfg = s.cfg ∧ t.env = s.env ∧
      t.inputs = s.inputs

/-- R162, with `CYCLE_LIMIT` where it writes its default 8: a configured `RUN` over a PHY clock that supplies the
cycles, with no halt request before the last of them, completes with `Ok`; every sample is in the capture, and
every other register and buffer is unchanged. A halt request in the instant of the last cycle comes after it
(R158), and with `RUN_TIMEOUT` set the run completes all the same where its last cycle comes no later than the time
expires (R155; RunTimeoutHaltsTheRun has the rest). -/
def Obligations.RunCompletesOverTheClockCycles : Prop :=
  ∀ (s : State) (pre rest : List Instant) (e : Instant),
    s.ctl.configured = true → ReferencePlatform s.cfg → ChannelsProgrammed s →
    s.inputs = pre ++ e :: rest → (∀ x ∈ pre, quiet x = true) → e.rstN = true →
    e.phyClk = true → clockCycles pre + 1 = s.cfg.cycleLimit →
    noTimeout s.cfg s.env.now pre → byTimeout s.cfg s.env.now e →
    ∃ t, exec .run s = .next t ∧ Responded 0 0 0 t ∧
      t.ctl = { s.ctl with
        running := false, cyc := BitVec.ofNat 4 s.cfg.cycleLimit, runDone := true, runHalted := false } ∧
      t.buf.dataBuf = s.buf.dataBuf ∧ t.buf.dirBuf = s.buf.dirBuf ∧ t.buf.stpBuf = s.buf.stpBuf ∧
      holdsSamples t.buf.capBuf (nxtSamples s.cfg (pre ++ [e])) ∧
      t.pins.dataOe0 = false ∧ t.pins.dataOe1 = false ∧ t.pins.resetOut = s.pins.resetOut ∧
      t.pins.stpLevel = s.pins.stpLevel ∧ stpPin t = s.pins.stpLevel ∧
      t.session = s.session ∧ t.tx = s.tx ∧ t.owner = s.owner ∧ t.cfg = s.cfg ∧ t.env = e ∧ t.inputs = rest

/-- A `RUN` whose PHY clock supplies fewer cycles than `CYCLE_LIMIT`, with no halt request and no `RUN_TIMEOUT`,
does not complete: it is still busy and running, has written no response, and the pins keep the outputs of cycle
`cyc` (42_bus_controller.md R154; that those of cycle 0 stand from the trigger on is log entry 11). -/
def Obligations.RunWithoutClockStaysInProgress : Prop :=
  ∀ s : State, s.ctl.configured = true → ReferencePlatform s.cfg → ChannelsProgrammed s →
    (∀ x ∈ s.inputs, quiet x = true) → clockCycles s.inputs < s.cfg.cycleLimit → s.cfg.runTimeout = none →
    ∃ t, exec .run s = .next t ∧ t.port.busy = true ∧ t.port.rspValid = false ∧
      t.inFlight = .run s.env.now ∧ t.inputs = [] ∧
      t.ctl = { s.ctl with
        running := true, cyc := BitVec.ofNat 4 (clockCycles s.inputs), runDone := false, runHalted := false } ∧
      (∀ k : Fin 8, k.val = clockCycles s.inputs →
        t.pins.dataOut = s.buf.dataBuf[k] ∧ t.pins.dataOe0 = s.buf.dirBuf.getLsbD (2 * k.val) ∧
        t.pins.dataOe1 = s.buf.dirBuf.getLsbD (2 * k.val + 1) ∧ stpPin t = s.buf.stpBuf.getLsbD k.val) ∧
      holdsSamples t.buf.capBuf (nxtSamples s.cfg s.inputs) ∧
      t.session = s.session ∧ t.tx = s.tx ∧ t.owner = s.owner ∧ t.cfg = s.cfg

/-- A halt request before the last cycle ends the run: `RUN` completes with `Ok` and `rsp_info[0] = 1`, `cyc` counts
the cycles shifted (the one of the halt's own instant included, R231), and the capture holds their samples. With
`RUN_TIMEOUT` set the halt comes no later than the time expires (42_bus_controller.md R157, R158). -/
def Obligations.HaltRequestEndsTheRun : Prop :=
  ∀ (s : State) (pre rest : List Instant) (e : Instant),
    s.ctl.configured = true → ReferencePlatform s.cfg → ChannelsProgrammed s →
    s.inputs = pre ++ e :: rest → (∀ x ∈ pre, quiet x = true) → e.rstN = true → e.haltReq = true →
    clockCycles (pre ++ [e]) < s.cfg.cycleLimit → noTimeout s.cfg s.env.now pre → byTimeout s.cfg s.env.now e →
    ∃ t, exec .run s = .next t ∧ Responded 0 0 1 t ∧
      t.ctl = { s.ctl with
        running := false, cyc := BitVec.ofNat 4 (clockCycles (pre ++ [e])), runDone := false,
        runHalted := true } ∧
      t.buf.dataBuf = s.buf.dataBuf ∧ t.buf.dirBuf = s.buf.dirBuf ∧ t.buf.stpBuf = s.buf.stpBuf ∧
      holdsSamples t.buf.capBuf (nxtSamples s.cfg (pre ++ [e])) ∧
      t.pins.dataOe0 = false ∧ t.pins.dataOe1 = false ∧ stpPin t = s.pins.stpLevel ∧
      t.session = s.session ∧ t.tx = s.tx ∧ t.owner = s.owner ∧ t.cfg = s.cfg ∧ t.env = e ∧ t.inputs = rest

/-- With `RUN_TIMEOUT` set, a run that has not completed when the time since the start trigger reaches it is halted
and fails with `TransactionTimeout`, stage `Run`, with `cyc` and `cap_buf` as the halt left them. That is at the
instant `e` that falls on that time, its own clock cycle included, or at that time itself, before an `e` that comes
later, whatever it shows (42_bus_controller.md R155; that the wait ends on its time between two instants is log
entries 15 and 27). -/
def Obligations.RunTimeoutHaltsTheRun : Prop :=
  ∀ (s : State) (pre rest : List Instant) (e : Instant) (limit : Nat),
    s.ctl.configured = true → ReferencePlatform s.cfg → ChannelsProgrammed s →
    s.inputs = pre ++ e :: rest → (∀ x ∈ pre, quiet x = true) →
    clockCycles pre < s.cfg.cycleLimit → s.cfg.runTimeout = some limit → noTimeout s.cfg s.env.now pre →
    0 < limit →
    (e.now = s.env.now + limit → quiet e = true → clockCycles (pre ++ [e]) < s.cfg.cycleLimit →
      ∃ t, exec .run s = .next t ∧ TimedOut s (pre ++ [e]) t ∧ t.env = e ∧ t.inputs = rest) ∧
    (s.env.now + limit < e.now →
      ∃ t, exec .run s = .next t ∧ TimedOut s pre t ∧ t.env.now = s.env.now + limit ∧ t.inputs = e :: rest)

/-- `RUN` with `configured = 0` completes with `IllegalOperation`, stage `Run`, info 7, and changes nothing but the
response registers (42_bus_controller.md R146; 60_exceptions.md R226). -/
def Obligations.UnconfiguredRunIsIllegal : Prop :=
  ∀ s : State, s.ctl.configured = false →
    ∃ t, exec .run s = .next t ∧ Responded 6 4 7 t ∧ OnlyResponseDiffers s t

/-- `RUN` and `WRITE_REGISTER` over descriptors that pass `CONFIGURE` but are not the reference table are refused, as
93_implementation_defined.md U12 asks of a model. -/
def Obligations.RunOffTheReferenceTableIsRefused : Prop :=
  ∀ (s : State) (a v : Byte), s.cfg.desc ≠ s.cfg.reference →
    (s.ctl.configured = true → exec .run s = .refused .noRunRuleForDescriptors) ∧
    (a ≤ 0x3F#8 → (∀ c ∈ configureChecks s, c.1) →
      exec (.writeRegister a v) s = .refused .noRunRuleForDescriptors)

/-- One step of the channel engine inside the buffers: it captures the sample of cycle `cyc` in its own bit, moves
`cyc` on by one, and presents the next cycle (log entry 11) or, at `CYCLE_LIMIT`, halts the channels, with `data_out`
as it was (log entry 22); nothing else changes (42_bus_controller.md R148 to R152). -/
def Obligations.EngineStepShiftsOneCycle : Prop :=
  ∀ (s : State) (n : Bool), s.cfg.cycleLimit ≤ 8 → s.ctl.cyc.toNat < s.cfg.cycleLimit →
    ∃ t, engineStep n s = .next t ∧
      t.ctl.cyc.toNat = s.ctl.cyc.toNat + 1 ∧ t.ctl.runHalted = s.ctl.runHalted ∧
      t.ctl.configured = s.ctl.configured ∧ t.ctl.chData = s.ctl.chData ∧ t.ctl.chStp = s.ctl.chStp ∧
      t.ctl.chNxt = s.ctl.chNxt ∧
      (∀ i < 32, t.buf.capBuf.getLsbD i = if i = s.ctl.cyc.toNat then n else s.buf.capBuf.getLsbD i) ∧
      t.buf.dataBuf = s.buf.dataBuf ∧ t.buf.dirBuf = s.buf.dirBuf ∧ t.buf.stpBuf = s.buf.stpBuf ∧
      (s.ctl.cyc.toNat + 1 = s.cfg.cycleLimit →
        t.ctl.running = false ∧ t.ctl.runDone = true ∧ t.pins.dataOe0 = false ∧ t.pins.dataOe1 = false ∧
        stpPin t = s.pins.stpLevel) ∧
      (s.ctl.cyc.toNat + 1 < s.cfg.cycleLimit →
        t.ctl.running = s.ctl.running ∧ t.ctl.runDone = s.ctl.runDone ∧
        ∀ k : Fin 8, k.val = s.ctl.cyc.toNat + 1 →
          t.pins.dataOut = s.buf.dataBuf[k] ∧ t.pins.dataOe0 = s.buf.dirBuf.getLsbD (2 * k.val) ∧
          t.pins.dataOe1 = s.buf.dirBuf.getLsbD (2 * k.val + 1)) ∧
      t.pins.resetOut = s.pins.resetOut ∧ t.pins.stpLevel = s.pins.stpLevel ∧
      (s.ctl.cyc.toNat + 1 = s.cfg.cycleLimit → t.pins.dataOut = s.pins.dataOut) ∧
      t.session = s.session ∧ t.tx = s.tx ∧ t.port = s.port ∧ t.owner = s.owner ∧ t.cfg = s.cfg ∧
      t.inFlight = s.inFlight ∧ t.env = s.env ∧ t.inputs = s.inputs ∧ t.freeCount = s.freeCount

/-- While the channels run, an instant without a reset writes no buffer but `cap_buf`, and leaves the frame, the
direction code and the stop pattern as they were at the start trigger (20_memory.md R73). -/
def Obligations.ARunWritesOnlyTheCapture : Prop :=
  ∀ (e : Instant) (s t : State), s.ctl.running = true → e.rstN = true → tick e s = .next t →
    t.buf.dataBuf = s.buf.dataBuf ∧ t.buf.dirBuf = s.buf.dirBuf ∧ t.buf.stpBuf = s.buf.stpBuf ∧ t.tx = s.tx

/-- R159: `halt_all` applied twice equals once; it leaves `running = 0`; and a state with `running = 0` is left as it
is. For the last clause the data pins are released in such a state, which R161 says and the invariant keeps. -/
def Obligations.HaltAllIsIdempotent : Prop :=
  ∀ s : State, haltAll (haltAll s) = haltAll s ∧ (haltAll s).ctl.running = false ∧
    (s.ctl.running = false → s.pins.dataOe0 = false ∧ s.pins.dataOe1 = false → haltAll s = s)

/-- `HALT` completes with `Ok` in every state, stops the channels, releases the data pins, sets `run_halted` exactly
if it found a run, and changes nothing else (42_bus_controller.md R156, R157). -/
def Obligations.HaltAlwaysStopsTheChannels : Prop :=
  ∀ s : State, ∃ t, exec .halt s = .next t ∧ Responded 0 0 0 t ∧
    t.ctl = { s.ctl with running := false, runHalted := s.ctl.running || s.ctl.runHalted } ∧
    t.pins = { s.pins with dataOe0 := false, dataOe1 := false } ∧ stpPin t = s.pins.stpLevel ∧
    t.session = s.session ∧ t.tx = s.tx ∧ t.buf = s.buf ∧ t.owner = s.owner ∧ t.cfg = s.cfg ∧
    t.env = s.env ∧ t.inputs = s.inputs

/-! ### Validator -/

/-- R172: `VALIDATE` answers `Ok` iff all 32 bits of the capture equal the expected word, and `HandshakeMismatch`
with both words otherwise; it changes nothing but the response registers. -/
def Obligations.ValidateComparesAllThirtyTwoBits : Prop :=
  ∀ s : State, ∃ t, exec .validate s = .next t ∧ OnlyResponseDiffers s t ∧
    ((∀ i < 32, s.buf.capBuf.getLsbD i = s.tx.expectedHandshake.getLsbD i) → Responded 0 0 0 t) ∧
    ((∃ i < 32, s.buf.capBuf.getLsbD i ≠ s.tx.expectedHandshake.getLsbD i) →
      Responded 4 5 0 t ∧ t.port.rspExpected = s.tx.expectedHandshake ∧ t.port.rspObserved = s.buf.capBuf)

/-! ### Bring-up and shut-down -/

/-- `BRING_UP` holds the reset for exactly `T_RESET_HOLD` and settles for exactly `T_SETTLE`, over whatever instants
come meanwhile, and makes its first poll with the levels `x` seen at that time (`used` is what it takes until then).
Where it polls DIR asserted before the deadline over `pre`, and then finds it de-asserted at `e` (which is `x` itself
where `pre` is empty), it ends in `Ready` with the pins handed over idle (44_bringup_fsm.md R180 to R189, R193, R194;
what is seen where no instant falls on that time is log entry 15). Where `e` is past the deadline it comes within
`POLL_EPS` of the poll before it (PollsAreAtMostPollEpsApart has the rest). The buffers and transaction registers are
left alone (70_reset_and_hazards.md R260). -/
def Obligations.BringUpReachesReady : Prop :=
  ∀ (s : State) (used rest pre later : List Instant) (x e : Instant),
    s.inputs = used ++ rest → (∀ y ∈ used, y.rstN = true) →
    firstLook (s.env.now + s.cfg.tResetHold + s.cfg.tSettle) s.env s.inputs = some (x, rest) →
    x :: rest = pre ++ e :: later → (∀ y ∈ (pre ++ [e]).tail, y.rstN = true) →
    (∀ y ∈ pre, dirAt s.cfg y = true ∧
      y.now < s.env.now + s.cfg.tResetHold + s.cfg.tSettle + s.cfg.tClockDeadline) →
    (∀ y, pre.getLast? = some y → e.now ≤ y.now + s.cfg.pollEps ∨
      e.now ≤ s.env.now + s.cfg.tResetHold + s.cfg.tSettle + s.cfg.tClockDeadline) →
    dirAt s.cfg e = false →
    ∃ t, exec .bringUp s = .next t ∧
      Responded 1 0
        ((if s.cfg.sanityChecks && decide (x.checkPre ≠ .ok) then 1 else 0) |||
          (if s.cfg.sanityChecks && decide (e.checkPost ≠ .ok) then 2 else 0)) t ∧
      t.session.buState = .ready ∧
      t.session.envPre = (if s.cfg.sanityChecks then recordOf x.checkPre else .notRun) ∧
      t.session.envPost = (if s.cfg.sanityChecks then recordOf e.checkPost else .notRun) ∧
      t.pins = { s.pins with resetOut := true, stpLevel := false, dataOe0 := false, dataOe1 := false } ∧
      t.owner.stp = .free ∧ t.owner.reset = .session ∧ t.owner.dir = .session ∧
      (∀ p ∈ Pin.dataPins ++ [.nxt], t.owner.get p = .free) ∧ t.owner.clk = s.owner.clk ∧
      t.ctl = { s.ctl with
        configured := false, running := false, runHalted := s.ctl.running || s.ctl.runHalted } ∧
      t.tx = s.tx ∧ t.buf = s.buf ∧ t.cfg = s.cfg ∧ t.env = e ∧ t.inputs = later

/-- `BRING_UP` whose every poll finds DIR asserted, up to `e`, the first at or past the deadline, ends in
`Failed(ClockStartupTimeout)`; the stop pin stays with the session, and no "post" check is made. As in
BringUpReachesReady, `x` is what the first poll sees, and an `e` past the deadline comes within `POLL_EPS` of the poll
before it (44_bringup_fsm.md R183, R185, R188, R190, R193, R194; log entry 15). -/
def Obligations.BringUpTimesOutWhileDirStaysAsserted : Prop :=
  ∀ (s : State) (used rest pre later : List Instant) (x e : Instant),
    s.inputs = used ++ rest → (∀ y ∈ used, y.rstN = true) →
    firstLook (s.env.now + s.cfg.tResetHold + s.cfg.tSettle) s.env s.inputs = some (x, rest) →
    x :: rest = pre ++ e :: later → (∀ y ∈ (pre ++ [e]).tail, y.rstN = true) →
    (∀ y ∈ pre, dirAt s.cfg y = true ∧
      y.now < s.env.now + s.cfg.tResetHold + s.cfg.tSettle + s.cfg.tClockDeadline) →
    (∀ y, pre.getLast? = some y → e.now ≤ y.now + s.cfg.pollEps ∨
      e.now ≤ s.env.now + s.cfg.tResetHold + s.cfg.tSettle + s.cfg.tClockDeadline) →
    dirAt s.cfg e = true →
    s.env.now + s.cfg.tResetHold + s.cfg.tSettle + s.cfg.tClockDeadline ≤ e.now →
    ∃ t, exec .bringUp s = .next t ∧
      Responded 3 6 (if s.cfg.sanityChecks && decide (x.checkPre ≠ .ok) then 1 else 0) t ∧
      t.session.buState = .failed ∧
      t.session.envPre = (if s.cfg.sanityChecks then recordOf x.checkPre else .notRun) ∧
      t.session.envPost = .notRun ∧
      t.pins = { s.pins with resetOut := true, stpLevel := false, dataOe0 := false, dataOe1 := false } ∧
      t.owner.stp = .session ∧ t.owner.reset = .session ∧ t.owner.dir = .session ∧
      (∀ p ∈ Pin.dataPins ++ [.nxt], t.owner.get p = .free) ∧ t.owner.clk = s.owner.clk ∧
      t.ctl = { s.ctl with
        configured := false, running := false, runHalted := s.ctl.running || s.ctl.runHalted } ∧
      t.tx = s.tx ∧ t.buf = s.buf ∧ t.cfg = s.cfg ∧ t.env = e ∧ t.inputs = later

/-- Bring-up never hangs: once the Timer has passed the deadline (at some instant `y`) `BRING_UP` has ended, in
`Ready` or `Failed`, no later than `T_RESET_HOLD + T_SETTLE + T_CLOCK_DEADLINE + POLL_EPS` after it was accepted,
wherever the instants fall and whatever they show short of a hardware reset (44_bringup_fsm.md R195;
70_reset_and_hazards.md R282; the `check()` calls take no time here, log entry 12; that the waits end on their times
between two instants is log entry 15). -/
def Obligations.BringUpEndsWithinItsBound : Prop :=
  ∀ (s : State) (y : Instant), (∀ x ∈ s.inputs, x.rstN = true) → y ∈ s.env :: s.inputs →
    s.env.now + s.cfg.tResetHold + s.cfg.tSettle + s.cfg.tClockDeadline ≤ y.now →
    ∃ t, exec .bringUp s = .next t ∧ t.port.busy = false ∧
      (t.session.buState = .ready ∨ t.session.buState = .failed) ∧
      t.env.now ≤ s.env.now + s.cfg.tResetHold + s.cfg.tSettle + s.cfg.tClockDeadline + s.cfg.pollEps

/-- The reset hold and the settle delay last exactly `T_RESET_HOLD` and `T_SETTLE`: an instant before the deadline
changes nothing, whatever its levels, halt request, clock and command; one at the deadline ends the delay; and before
one later than the deadline the delay has ended at the deadline, with the levels of the present instant. Then the reset
pin is released and the settle delay counted from the deadline, or the stop pin is de-asserted and DIR polled
(44_bringup_fsm.md R183 to R188; what is seen where no instant falls on the deadline is log entry 15). -/
def Obligations.TheDelaysLastExactly : Prop :=
  ∀ (s : State) (e : Instant), s.port.busy = true → s.ctl.running = false →
    s.pins.dataOe0 = false → s.pins.dataOe1 = false → 0 < s.cfg.tSettle → 0 < s.cfg.tClockDeadline →
    ((s.inFlight = .bringUpHold ∨ s.inFlight = .bringUpSettle) → e.now < s.session.buDeadline → e.rstN = true →
      catchUp e s = s ∧ tick e s = .next { s with env := e }) ∧
    (s.inFlight = .bringUpHold →
      (e.now = s.session.buDeadline → e.rstN = true →
        catchUp e s = s ∧ ∃ u, tick e s = .next u ∧ SettleBegins s u) ∧
      (s.session.buDeadline < e.now → SettleBegins s (lookBefore e s))) ∧
    (s.inFlight = .bringUpSettle →
      (e.now = s.session.buDeadline → e.rstN = true →
        catchUp e s = s ∧ ∃ u, tick e s = .next u ∧ PollingBegins s (dirAt s.cfg e) u) ∧
      (s.session.buDeadline < e.now → PollingBegins s (dirIn s) (lookBefore e s)))

/-- A wait on the Timer ends on its time wherever the instants fall: an operation in progress over instants the next
of which comes after that time goes exactly as it does with one instant more, at that time, with the levels of the
present one and no event; in an operation and in a step of a busy block (44_bringup_fsm.md R183, R185, R188;
42_bus_controller.md R155; that levels hold between two instants is log entry 15, that `RUN_TIMEOUT` ends so log entry
27). -/
def Obligations.GapsAreAsIfAnInstantFell : Prop :=
  ∀ (s : State) (e : Instant) (rest : List Instant), lookDue e s = true →
    lookTime s < e.now ∧ drain (e :: rest) s = drain (held (lookTime s) s.env :: e :: rest) s ∧
    step { s with inputs := e :: rest } = step { s with inputs := held (lookTime s) s.env :: e :: rest }

/-- `POLL_EPS` bounds the time between two polls. In `AwaitingClockStable` with DIR asserted at the last poll: where the
next instant comes within `POLL_EPS` of it, or not past the deadline, the poll of that instant decides; where it comes
later, and `POLL_EPS` or more past the deadline, the block has timed out before it, at a poll of its own between the
deadline and `POLL_EPS` after it, and that instant is still to come, whatever it shows; and in between the one or the
other happens (00_scope.md R13; 44_bringup_fsm.md R188, R190; that the levels of an instant hold until the next one is
log entry 15). -/
def Obligations.PollsAreAtMostPollEpsApart : Prop :=
  ∀ (s : State) (e : Instant) (rest : List Instant),
    s.port.busy = true → s.inFlight = .bringUpPoll → s.ctl.running = false → dirIn s = true →
    s.inputs = e :: rest →
    ((e.now ≤ s.env.now + s.cfg.pollEps ∨ e.now ≤ s.session.buDeadline) → e.rstN = true →
      (dirAt s.cfg e = false →
        ∃ t, step s = .next t ∧ t.session.buState = .ready ∧ t.env = e ∧ t.inputs = rest) ∧
      (dirAt s.cfg e = true → s.session.buDeadline ≤ e.now →
        ∃ t, step s = .next t ∧ t.session.buState = .failed ∧ t.env = e ∧ t.inputs = rest)) ∧
    (s.env.now + s.cfg.pollEps < e.now → s.session.buDeadline < e.now →
      s.session.buDeadline + s.cfg.pollEps ≤ e.now →
      ∃ t, step s = .next t ∧ Responded 3 6 (envBits s.session) t ∧
        t.session.buState = .failed ∧ t.session.envPre = s.session.envPre ∧
        t.session.envPost = s.session.envPost ∧ s.session.buDeadline ≤ t.env.now ∧
        t.env.now ≤ s.session.buDeadline + s.cfg.pollEps ∧ t.inputs = e :: rest ∧
        t.tx = s.tx ∧ t.buf = s.buf ∧ t.ctl = s.ctl ∧ t.pins = s.pins ∧ t.owner = s.owner ∧ t.cfg = s.cfg) ∧
    (s.env.now + s.cfg.pollEps < e.now → s.session.buDeadline < e.now →
      e.now < s.session.buDeadline + s.cfg.pollEps → e.rstN = true →
      ∃ t, step s = .next t ∧ t.port.busy = false ∧
        (t.env = e ∧ t.inputs = rest ∧
            t.session.buState = (if dirAt s.cfg e then .failed else .ready) ∨
          s.session.buDeadline ≤ t.env.now ∧ t.env.now < e.now ∧ t.inputs = e :: rest ∧
            t.session.buState = .failed))

/-- R230: a poll tests DIR before the deadline: with DIR de-asserted it gives `Ready` at any time. -/
def Obligations.PollTestsThePinBeforeTheClock : Prop :=
  ∀ (e : Instant) (s : State), s.inFlight = .bringUpPoll → s.ctl.running = false → e.rstN = true →
    dirAt s.cfg e = false →
    ∃ t, tick e s = .next t ∧ t.session.buState = .ready ∧ t.port.rspCode = 1 ∧ t.port.rspValid = true

/-- `SHUT_DOWN` completes with `Ok` in every state: channels halted, `configured` cleared, the controller's pins free,
the session's state, the reset pin, the stop level, `cyc`, `run_done` and every buffer and transaction register
unchanged (44_bringup_fsm.md R196). -/
def Obligations.ShutDownLeavesThePinsIdle : Prop :=
  ∀ s : State, ∃ t, exec .shutDown s = .next t ∧ Responded 0 0 0 t ∧
    t.ctl = { s.ctl with
      configured := false, running := false, runHalted := s.ctl.running || s.ctl.runHalted } ∧
    (∀ p ∈ Pin.dataPins ++ [.nxt, .stp], t.owner.get p =
      if s.owner.get p = .controller then .free else s.owner.get p) ∧
    t.owner.dir = s.owner.dir ∧ t.owner.reset = s.owner.reset ∧ t.owner.clk = s.owner.clk ∧
    t.pins = { s.pins with dataOe0 := false, dataOe1 := false } ∧
    t.session = s.session ∧ t.tx = s.tx ∧ t.buf = s.buf ∧ t.cfg = s.cfg ∧ t.env = s.env ∧ t.inputs = s.inputs

/-- `SHUT_DOWN` twice equals once, up to the two unspecified words of the response (44_bringup_fsm.md R196). -/
def Obligations.ShutDownTwiceEqualsOnce : Prop :=
  ∀ s : State, ∃ t u, exec .shutDown s = .next t ∧ exec .shutDown t = .next u ∧
    OnlyResponseDiffers t u ∧ u.port.rspCode = t.port.rspCode ∧ u.port.rspStage = t.port.rspStage ∧
    u.port.rspInfo = t.port.rspInfo ∧ u.port.busy = t.port.busy ∧ u.port.rspValid = t.port.rspValid

/-! ### Register write -/

/-- The result of `WRITE_REGISTER` as a function of the samples, in the controller phase with the reference
descriptors, all pins available and a PHY clock that supplies the cycles: `Ok` iff the eight samples are
0,0,0,0,1,1,0,0, else `HandshakeMismatch` with both words; the frame is on the pins; and all of its state
(45_register_write.md R210, R213). -/
def Obligations.WriteRegisterResultIsTheSamples : Prop :=
  ∀ (a v : Byte) (s : State) (pre rest : List Instant) (e : Instant), a ≤ 0x3F#8 →
    ReferencePlatform s.cfg → s.cfg.cycleLimit = 8 → AllPinsBindable s →
    s.inputs = pre ++ e :: rest → (∀ x ∈ pre, quiet x = true) → e.rstN = true → e.phyClk = true →
    clockCycles pre + 1 = 8 → noTimeout s.cfg s.env.now pre → byTimeout s.cfg s.env.now e →
    ∃ t, exec (.writeRegister a v) s = .next t ∧ t.port.busy = false ∧ t.port.rspValid = true ∧
      (nxtSamples s.cfg (pre ++ [e]) = [false, false, false, false, true, true, false, false] →
        Responded 0 0 0 t) ∧
      (nxtSamples s.cfg (pre ++ [e]) ≠ [false, false, false, false, true, true, false, false] →
        Responded 4 5 0 t ∧ t.port.rspExpected = 0x00000030#32 ∧ t.port.rspObserved = t.buf.capBuf) ∧
      holdsSamples t.buf.capBuf (nxtSamples s.cfg (pre ++ [e])) ∧
      t.tx = { commandByte := 0x80#8 ||| a, valueByte := v, driveMask := 0x007E, expectedHandshake := 0x30 } ∧
      t.buf.dirBuf = 0x00003FFC#32 ∧ t.buf.stpBuf = s.cfg.stpPatternWrite ∧
      (pinTrace t).map (·.data) =
        [s.cfg.idleCode, 0x80#8 ||| a, 0x80#8 ||| a, 0x80#8 ||| a, v,
          s.cfg.idleCode, s.cfg.idleCode, s.cfg.idleCode] ∧
      (pinTrace t).map (fun c => (c.oe0, c.oe1)) =
        [(false, false), (true, true), (true, true), (true, true), (true, true), (true, true), (true, true),
          (false, false)] ∧
      (s.cfg.stpPatternWrite = 0x00000020#32 →
        (pinTrace t).map (·.stp) = [false, false, false, false, false, true, false, false]) ∧
      t.ctl.configured = true ∧ ChannelsProgrammed t ∧ t.ctl.running = false ∧ t.ctl.cyc = 8 ∧
      t.ctl.runDone = true ∧ t.ctl.runHalted = false ∧
      (∀ p, t.owner.get p = if p ∈ Pin.dataPins ++ [.stp, .nxt] then .controller else s.owner.get p) ∧
      t.pins.dataOe0 = false ∧ t.pins.dataOe1 = false ∧ t.pins.stpLevel = false ∧
      t.pins.resetOut = s.pins.resetOut ∧
      t.session = s.session ∧ t.cfg = s.cfg ∧ t.env = e ∧ t.inputs = rest

/-- Step 1 of `WRITE_REGISTER` fails as `CONFIGURE` does, with the first failed check, and then nothing but the
response registers changes (45_register_write.md R210, R211). -/
def Obligations.WriteRegisterStopsAtAFailedConfigure : Prop :=
  ∀ (a v : Byte) (s : State) (held later : List (Prop × Byte)) (failed : Prop) (info : Byte), a ≤ 0x3F#8 →
    configureChecks s = held ++ (failed, info) :: later → (∀ c ∈ held, c.1) → ¬ failed →
    ∃ t, exec (.writeRegister a v) s = .next t ∧ Responded 2 1 info t ∧ OnlyResponseDiffers s t

/-- In the session phase `CONFIGURE` and `WRITE_REGISTER` over the reference table fail with `ConfigurationError`,
`RUN` of an unconfigured block with `IllegalOperation`, and nothing is put on the bus
(45_register_write.md R212; 60_exceptions.md R239). -/
def Obligations.SessionPhaseKeepsTheBusQuiet : Prop :=
  ∀ (a v : Byte) (s : State), a ≤ 0x3F#8 → ReferencePlatform s.cfg → s.owner.stp = .session →
    s.ctl.configured = false →
    ∃ t u w, exec .configure s = .next t ∧ exec (.writeRegister a v) s = .next u ∧ exec .run s = .next w ∧
      t.port.rspCode = 2 ∧ t.port.rspStage = 1 ∧ OnlyResponseDiffers s t ∧
      u.port.rspCode = 2 ∧ u.port.rspStage = 1 ∧ OnlyResponseDiffers s u ∧
      w.port.rspCode = 6 ∧ w.port.rspStage = 4 ∧ OnlyResponseDiffers s w ∧
      ((∀ p ∈ Pin.dataPins, PinBindable s p) → t.port.rspInfo = 0x0D ∧ u.port.rspInfo = 0x0D)

/-- `WRITE_REGISTER` is its five steps: where `CONFIGURE`, `ENCODE`, `EXPAND drive_mask`, `RUN` and `VALIDATE` issued
one after the other reach an end, the composed operation reaches the same registers, buffers, flags, pins and
owners, with the same response (30_encoding.md R102; 45_register_write.md R210). -/
def Obligations.WriteRegisterIsItsFiveSteps : Prop :=
  ∀ (a v : Byte) (s s1 s2 s3 s4 s5 : State),
    exec .configure s = .next s1 → s1.port.rspCode = 0 →
    exec (.encode a v) s1 = .next s2 → exec (.expand s2.tx.driveMask) s2 = .next s3 →
    exec .run s3 = .next s4 → s4.port.busy = false → s4.port.rspValid = true → s4.port.rspCode = 0 →
    exec .validate s4 = .next s5 →
    ∃ t, exec (.writeRegister a v) s = .next t ∧
      t.session = s5.session ∧ t.tx = s5.tx ∧ t.buf = s5.buf ∧ t.ctl = s5.ctl ∧ t.pins = s5.pins ∧
      t.owner = s5.owner ∧ t.env = s5.env ∧ t.inputs = s5.inputs ∧ t.inFlight = s5.inFlight ∧
      t.port.busy = s5.port.busy ∧ t.port.rspValid = s5.port.rspValid ∧ t.port.rspCode = s5.port.rspCode ∧
      t.port.rspStage = s5.port.rspStage ∧ t.port.rspInfo = s5.port.rspInfo ∧
      (t.port.rspCode = 4 →
        t.port.rspExpected = s5.port.rspExpected ∧ t.port.rspObserved = s5.port.rspObserved)

/-- Where the `RUN` of the five steps fails with `TransactionTimeout`, `WRITE_REGISTER` fails with the same response
in the same state, and makes no comparison (45_register_write.md R210, R211, R214). -/
def Obligations.WriteRegisterFailsAsItsRunDoes : Prop :=
  ∀ (a v : Byte) (s s1 s2 s3 s4 : State),
    exec .configure s = .next s1 → s1.port.rspCode = 0 →
    exec (.encode a v) s1 = .next s2 → exec (.expand s2.tx.driveMask) s2 = .next s3 →
    exec .run s3 = .next s4 → s4.port.busy = false → s4.port.rspValid = true → s4.port.rspCode = 5 →
    ∃ t, exec (.writeRegister a v) s = .next t ∧ Responded 5 4 0 t ∧
      t.session = s4.session ∧ t.tx = s4.tx ∧ t.buf = s4.buf ∧ t.ctl = s4.ctl ∧ t.pins = s4.pins ∧
      t.owner = s4.owner ∧ t.env = s4.env ∧ t.inputs = s4.inputs

/-- A write whose PHY clock stops never completes: it is busy, its channels run, and no response is written
(45_register_write.md R214). -/
def Obligations.StalledWriteStaysInProgress : Prop :=
  ∀ (a v : Byte) (s : State), a ≤ 0x3F#8 → ReferencePlatform s.cfg → AllPinsBindable s →
    (∀ x ∈ s.inputs, quiet x = true) → clockCycles s.inputs < s.cfg.cycleLimit → s.cfg.runTimeout = none →
    ∃ t, exec (.writeRegister a v) s = .next t ∧ t.port.busy = true ∧ t.port.rspValid = false ∧
      t.inFlight = .writeRun s.env.now ∧ t.ctl.running = true ∧
      t.ctl.cyc.toNat = clockCycles s.inputs ∧ t.tx.commandByte = 0x80#8 ||| a ∧ t.tx.valueByte = v

/-! ### Rules over the whole machine -/

/-- No operation other than `BRING_UP` changes the bring-up session, and no step does that neither accepts a
`BRING_UP` nor carries one on, whatever the environment does short of a hardware reset: DIR, the PHY clock, a halt
request, a failure (44_bringup_fsm.md R191). -/
def Obligations.OnlyBringUpChangesTheSession : Prop :=
  (∀ (i : Instr) (s t : State), i ≠ .bringUp → (∀ x ∈ s.inputs, x.rstN = true) → exec i s = .next t →
    t.session = s.session) ∧
  ∀ (s t : State) (e : Instant) (rest : List Instant), s.inputs = e :: rest →
    (∀ x ∈ s.inputs, x.rstN = true) →
    s.inFlight ≠ .bringUpHold → s.inFlight ≠ .bringUpSettle → s.inFlight ≠ .bringUpPoll →
    (s.port.busy = false → ∀ w, e.cmd = some w → decode w ≠ .ok .bringUp) →
    step s = .next t → t.session = s.session

/-- R63: which operation writes which buffer, and which writes the transaction registers, short of a hardware
reset. -/
def Obligations.EachBufferHasItsWriters : Prop :=
  ∀ (i : Instr) (s t : State), (∀ x ∈ s.inputs, x.rstN = true) → exec i s = .next t →
    ((∀ a v, i ≠ .encode a v ∧ i ≠ .writeRegister a v) →
      t.buf.dataBuf = s.buf.dataBuf ∧ t.buf.stpBuf = s.buf.stpBuf) ∧
    ((∀ m a v, i ≠ .expand m ∧ i ≠ .writeRegister a v) → t.buf.dirBuf = s.buf.dirBuf) ∧
    ((∀ a v, i ≠ .run ∧ i ≠ .writeRegister a v) → t.buf.capBuf = s.buf.capBuf) ∧
    ((∀ m a v, i ≠ .encode a v ∧ i ≠ .expand m ∧ i ≠ .writeRegister a v) → t.tx = s.tx)

/-- No step changes a parameter of the platform or a descriptor (70_reset_and_hazards.md R268). -/
def Obligations.NoStepChangesTheParameters : Prop :=
  ∀ s t : State, step s = .next t → t.cfg = s.cfg

/-- A busy port accepts nothing: the word presented at the next instant makes no difference to what a step of a busy
block does, nor to what that instant does within an operation. The states reached are the same but for the word in
`env` itself (or in `inputs`, where a wait that ends before the instant ends the operation and the instant is still
to come, log entry 15); a step that faults does so with either word; and none is refused (10_state.md R36, R43;
93_implementation_defined.md U13). -/
def Obligations.BusyPortAcceptsNothing : Prop :=
  (∀ (s : State) (e : Instant) (rest : List Instant) (c : Option Cmd20),
    s.port.busy = true → s.inputs = e :: rest →
    (∀ t, step s = .next t →
      ∃ t', step { s with inputs := { e with cmd := c } :: rest } = .next t' ∧
        (if (catchUp e s).port.busy then AgreeButTheCommand t t'
         else t.inputs = e :: rest ∧ t' = { t with inputs := { e with cmd := c } :: rest })) ∧
    (∀ x, step s = .fault x → step { s with inputs := { e with cmd := c } :: rest } = .fault x) ∧
    (∀ x, step s ≠ .refused x)) ∧
  ∀ (e : Instant) (c : Option Cmd20) (s t : State), tick e s = .next t →
    tick { e with cmd := c } s = .next { t with env := { t.env with cmd := c } }

/-- A step of a ready port runs the instruction the presented word decodes to, at the state of that instant: the next
inputs are taken, and a halt request of the same instant comes first (10_state.md R43; 60_exceptions.md R231; that
instants come as a list is log entry 3). -/
def Obligations.StepRunsTheDecodedInstr : Prop :=
  ∀ (s : State) (e : Instant) (rest : List Instant) (w : Cmd20) (i : Instr),
    s.port.busy = false → s.ctl.running = false → s.inputs = e :: rest → e.rstN = true →
    e.cmd = some w → decode w = .ok i → i.wellFormed = true →
    step s = exec i
      (if e.haltReq then haltAll { s with env := e, inputs := rest } else { s with env := e, inputs := rest })

/-- The invariant of the block (Safety.lean) is kept by every step, from every state that has it, whatever the
inputs. Its clauses name their rules; that a running channel presents the element of cycle `cyc` from the trigger on
is log entry 11. -/
def Obligations.EveryStepKeepsTheInvariant : Prop :=
  ∀ s t : State, BlockInv s → step s = .next t → BlockInv t

/-- The invariant holds after reset. -/
def Obligations.ResetHasTheInvariant : Prop := BlockInv State.reset

/-- R262 and R265, with the levels, owners and session that R261 and R263 give. -/
def Obligations.ResetLeavesTheStatedValues : Prop := AfterReset State.reset

/-- An instant with `rst_n` asserted puts the block in its reset state, whatever it was doing: as the first instant of
a step, and at any later instant of an operation in progress. Where a wait that ends before the instant ends the
operation, that is a step of its own, and the reset is the next one (70_reset_and_hazards.md R260 to R263, R265; log
entries 15 and 16). -/
def Obligations.HardwareResetAtAnyInstant : Prop :=
  ∀ (s : State) (e : Instant), e.rstN = false →
    (∃ t, tick e s = .next t ∧ AfterReset t ∧ t.cfg = s.cfg ∧ t.env = e ∧ t.inputs = s.inputs) ∧
    ∀ rest, s.inputs = e :: rest →
      ((s.port.busy = false ∨ (catchUp e s).port.busy = true) →
        ∃ t, step s = .next t ∧ AfterReset t ∧ t.cfg = s.cfg ∧ t.env = e ∧ t.inputs = rest) ∧
      (s.port.busy = true → (catchUp e s).port.busy = false →
        ∃ u t, step s = .next u ∧ u.port.busy = false ∧ u.inputs = e :: rest ∧
          step u = .next t ∧ AfterReset t ∧ t.cfg = s.cfg ∧ t.env = e ∧ t.inputs = rest)
end

