-- ==== Sys2Proof/Laws/State.lean ====
section
/-! SUPPORT. One lemma per state group per named update: what each operation leaves as it was, and the fields of
what it writes. All true by unfolding once. -/

namespace Sys2Proof.Machine

variable (s : State)


/-! ### accept -/

@[simp] theorem accept_cfg : (accept s).cfg = s.cfg := rfl
@[simp] theorem accept_session : (accept s).session = s.session := rfl
@[simp] theorem accept_tx : (accept s).tx = s.tx := rfl
@[simp] theorem accept_buf : (accept s).buf = s.buf := rfl
@[simp] theorem accept_ctl : (accept s).ctl = s.ctl := rfl
@[simp] theorem accept_pins : (accept s).pins = s.pins := rfl
@[simp] theorem accept_owner : (accept s).owner = s.owner := rfl
@[simp] theorem accept_inFlight : (accept s).inFlight = s.inFlight := rfl
@[simp] theorem accept_env : (accept s).env = s.env := rfl
@[simp] theorem accept_inputs : (accept s).inputs = s.inputs := rfl
@[simp] theorem accept_freeCount : (accept s).freeCount = s.freeCount := rfl

/-! ### waitFor -/

@[simp] theorem waitFor_cfg (f : InFlight) : (waitFor f s).cfg = s.cfg := rfl
@[simp] theorem waitFor_session (f : InFlight) : (waitFor f s).session = s.session := rfl
@[simp] theorem waitFor_tx (f : InFlight) : (waitFor f s).tx = s.tx := rfl
@[simp] theorem waitFor_buf (f : InFlight) : (waitFor f s).buf = s.buf := rfl
@[simp] theorem waitFor_ctl (f : InFlight) : (waitFor f s).ctl = s.ctl := rfl
@[simp] theorem waitFor_port (f : InFlight) : (waitFor f s).port = s.port := rfl
@[simp] theorem waitFor_pins (f : InFlight) : (waitFor f s).pins = s.pins := rfl
@[simp] theorem waitFor_owner (f : InFlight) : (waitFor f s).owner = s.owner := rfl
@[simp] theorem waitFor_env (f : InFlight) : (waitFor f s).env = s.env := rfl
@[simp] theorem waitFor_inputs (f : InFlight) : (waitFor f s).inputs = s.inputs := rfl
@[simp] theorem waitFor_freeCount (f : InFlight) : (waitFor f s).freeCount = s.freeCount := rfl

/-! ### writeResponse -/

@[simp] theorem writeResponse_cfg (c : BitVec 4) (st : BitVec 3) (i : Byte) (w : Option (Word32 × Word32)) : (writeResponse c st i w s).cfg = s.cfg := rfl
@[simp] theorem writeResponse_session (c : BitVec 4) (st : BitVec 3) (i : Byte) (w : Option (Word32 × Word32)) : (writeResponse c st i w s).session = s.session := rfl
@[simp] theorem writeResponse_tx (c : BitVec 4) (st : BitVec 3) (i : Byte) (w : Option (Word32 × Word32)) : (writeResponse c st i w s).tx = s.tx := rfl
@[simp] theorem writeResponse_buf (c : BitVec 4) (st : BitVec 3) (i : Byte) (w : Option (Word32 × Word32)) : (writeResponse c st i w s).buf = s.buf := rfl
@[simp] theorem writeResponse_ctl (c : BitVec 4) (st : BitVec 3) (i : Byte) (w : Option (Word32 × Word32)) : (writeResponse c st i w s).ctl = s.ctl := rfl
@[simp] theorem writeResponse_pins (c : BitVec 4) (st : BitVec 3) (i : Byte) (w : Option (Word32 × Word32)) : (writeResponse c st i w s).pins = s.pins := rfl
@[simp] theorem writeResponse_owner (c : BitVec 4) (st : BitVec 3) (i : Byte) (w : Option (Word32 × Word32)) : (writeResponse c st i w s).owner = s.owner := rfl
@[simp] theorem writeResponse_env (c : BitVec 4) (st : BitVec 3) (i : Byte) (w : Option (Word32 × Word32)) : (writeResponse c st i w s).env = s.env := rfl
@[simp] theorem writeResponse_inputs (c : BitVec 4) (st : BitVec 3) (i : Byte) (w : Option (Word32 × Word32)) : (writeResponse c st i w s).inputs = s.inputs := rfl

/-! ### succeed -/

@[simp] theorem succeed_cfg (c : Success) (i : Byte) : (succeed c i s).cfg = s.cfg := rfl
@[simp] theorem succeed_session (c : Success) (i : Byte) : (succeed c i s).session = s.session := rfl
@[simp] theorem succeed_tx (c : Success) (i : Byte) : (succeed c i s).tx = s.tx := rfl
@[simp] theorem succeed_buf (c : Success) (i : Byte) : (succeed c i s).buf = s.buf := rfl
@[simp] theorem succeed_ctl (c : Success) (i : Byte) : (succeed c i s).ctl = s.ctl := rfl
@[simp] theorem succeed_pins (c : Success) (i : Byte) : (succeed c i s).pins = s.pins := rfl
@[simp] theorem succeed_owner (c : Success) (i : Byte) : (succeed c i s).owner = s.owner := rfl
@[simp] theorem succeed_env (c : Success) (i : Byte) : (succeed c i s).env = s.env := rfl
@[simp] theorem succeed_inputs (c : Success) (i : Byte) : (succeed c i s).inputs = s.inputs := rfl

/-! ### raise -/

@[simp] theorem raise_cfg (f : Failure) : (raise f s).cfg = s.cfg := rfl
@[simp] theorem raise_session (f : Failure) : (raise f s).session = s.session := rfl
@[simp] theorem raise_tx (f : Failure) : (raise f s).tx = s.tx := rfl
@[simp] theorem raise_buf (f : Failure) : (raise f s).buf = s.buf := rfl
@[simp] theorem raise_ctl (f : Failure) : (raise f s).ctl = s.ctl := rfl
@[simp] theorem raise_pins (f : Failure) : (raise f s).pins = s.pins := rfl
@[simp] theorem raise_owner (f : Failure) : (raise f s).owner = s.owner := rfl
@[simp] theorem raise_env (f : Failure) : (raise f s).env = s.env := rfl
@[simp] theorem raise_inputs (f : Failure) : (raise f s).inputs = s.inputs := rfl

/-! ### presentCycle -/

@[simp] theorem presentCycle_cfg (k : Fin 8) : (presentCycle k s).cfg = s.cfg := rfl
@[simp] theorem presentCycle_session (k : Fin 8) : (presentCycle k s).session = s.session := rfl
@[simp] theorem presentCycle_tx (k : Fin 8) : (presentCycle k s).tx = s.tx := rfl
@[simp] theorem presentCycle_buf (k : Fin 8) : (presentCycle k s).buf = s.buf := rfl
@[simp] theorem presentCycle_ctl (k : Fin 8) : (presentCycle k s).ctl = s.ctl := rfl
@[simp] theorem presentCycle_port (k : Fin 8) : (presentCycle k s).port = s.port := rfl
@[simp] theorem presentCycle_owner (k : Fin 8) : (presentCycle k s).owner = s.owner := rfl
@[simp] theorem presentCycle_inFlight (k : Fin 8) : (presentCycle k s).inFlight = s.inFlight := rfl
@[simp] theorem presentCycle_env (k : Fin 8) : (presentCycle k s).env = s.env := rfl
@[simp] theorem presentCycle_inputs (k : Fin 8) : (presentCycle k s).inputs = s.inputs := rfl
@[simp] theorem presentCycle_freeCount (k : Fin 8) : (presentCycle k s).freeCount = s.freeCount := rfl

/-! ### releaseData -/

@[simp] theorem releaseData_cfg : (releaseData s).cfg = s.cfg := rfl
@[simp] theorem releaseData_session : (releaseData s).session = s.session := rfl
@[simp] theorem releaseData_tx : (releaseData s).tx = s.tx := rfl
@[simp] theorem releaseData_buf : (releaseData s).buf = s.buf := rfl
@[simp] theorem releaseData_ctl : (releaseData s).ctl = s.ctl := rfl
@[simp] theorem releaseData_port : (releaseData s).port = s.port := rfl
@[simp] theorem releaseData_owner : (releaseData s).owner = s.owner := rfl
@[simp] theorem releaseData_inFlight : (releaseData s).inFlight = s.inFlight := rfl
@[simp] theorem releaseData_env : (releaseData s).env = s.env := rfl
@[simp] theorem releaseData_inputs : (releaseData s).inputs = s.inputs := rfl
@[simp] theorem releaseData_freeCount : (releaseData s).freeCount = s.freeCount := rfl

/-! ### haltAll -/

@[simp] theorem haltAll_cfg : (haltAll s).cfg = s.cfg := rfl
@[simp] theorem haltAll_session : (haltAll s).session = s.session := rfl
@[simp] theorem haltAll_tx : (haltAll s).tx = s.tx := rfl
@[simp] theorem haltAll_buf : (haltAll s).buf = s.buf := rfl
@[simp] theorem haltAll_port : (haltAll s).port = s.port := rfl
@[simp] theorem haltAll_owner : (haltAll s).owner = s.owner := rfl
@[simp] theorem haltAll_inFlight : (haltAll s).inFlight = s.inFlight := rfl
@[simp] theorem haltAll_env : (haltAll s).env = s.env := rfl
@[simp] theorem haltAll_inputs : (haltAll s).inputs = s.inputs := rfl
@[simp] theorem haltAll_freeCount : (haltAll s).freeCount = s.freeCount := rfl

/-! ### startTrigger -/

@[simp] theorem startTrigger_cfg : (startTrigger s).cfg = s.cfg := rfl
@[simp] theorem startTrigger_session : (startTrigger s).session = s.session := rfl
@[simp] theorem startTrigger_tx : (startTrigger s).tx = s.tx := rfl
@[simp] theorem startTrigger_port : (startTrigger s).port = s.port := rfl
@[simp] theorem startTrigger_owner : (startTrigger s).owner = s.owner := rfl
@[simp] theorem startTrigger_inFlight : (startTrigger s).inFlight = s.inFlight := rfl
@[simp] theorem startTrigger_env : (startTrigger s).env = s.env := rfl
@[simp] theorem startTrigger_inputs : (startTrigger s).inputs = s.inputs := rfl
@[simp] theorem startTrigger_freeCount : (startTrigger s).freeCount = s.freeCount := rfl

/-! ### autoHalt -/

@[simp] theorem autoHalt_cfg : (autoHalt s).cfg = s.cfg := rfl
@[simp] theorem autoHalt_session : (autoHalt s).session = s.session := rfl
@[simp] theorem autoHalt_tx : (autoHalt s).tx = s.tx := rfl
@[simp] theorem autoHalt_buf : (autoHalt s).buf = s.buf := rfl
@[simp] theorem autoHalt_port : (autoHalt s).port = s.port := rfl
@[simp] theorem autoHalt_owner : (autoHalt s).owner = s.owner := rfl
@[simp] theorem autoHalt_inFlight : (autoHalt s).inFlight = s.inFlight := rfl
@[simp] theorem autoHalt_env : (autoHalt s).env = s.env := rfl
@[simp] theorem autoHalt_inputs : (autoHalt s).inputs = s.inputs := rfl
@[simp] theorem autoHalt_freeCount : (autoHalt s).freeCount = s.freeCount := rfl

/-! ### captureCycle -/

@[simp] theorem captureCycle_cfg (n : Nat) (b : Bool) : (captureCycle n b s).cfg = s.cfg := rfl
@[simp] theorem captureCycle_session (n : Nat) (b : Bool) : (captureCycle n b s).session = s.session := rfl
@[simp] theorem captureCycle_tx (n : Nat) (b : Bool) : (captureCycle n b s).tx = s.tx := rfl
@[simp] theorem captureCycle_port (n : Nat) (b : Bool) : (captureCycle n b s).port = s.port := rfl
@[simp] theorem captureCycle_pins (n : Nat) (b : Bool) : (captureCycle n b s).pins = s.pins := rfl
@[simp] theorem captureCycle_owner (n : Nat) (b : Bool) : (captureCycle n b s).owner = s.owner := rfl
@[simp] theorem captureCycle_inFlight (n : Nat) (b : Bool) : (captureCycle n b s).inFlight = s.inFlight := rfl
@[simp] theorem captureCycle_env (n : Nat) (b : Bool) : (captureCycle n b s).env = s.env := rfl
@[simp] theorem captureCycle_inputs (n : Nat) (b : Bool) : (captureCycle n b s).inputs = s.inputs := rfl
@[simp] theorem captureCycle_freeCount (n : Nat) (b : Bool) : (captureCycle n b s).freeCount = s.freeCount := rfl

/-! ### expandBody -/

@[simp] theorem expandBody_cfg (m : Mask16) : (expandBody m s).cfg = s.cfg := rfl
@[simp] theorem expandBody_session (m : Mask16) : (expandBody m s).session = s.session := rfl
@[simp] theorem expandBody_ctl (m : Mask16) : (expandBody m s).ctl = s.ctl := rfl
@[simp] theorem expandBody_port (m : Mask16) : (expandBody m s).port = s.port := rfl
@[simp] theorem expandBody_pins (m : Mask16) : (expandBody m s).pins = s.pins := rfl
@[simp] theorem expandBody_owner (m : Mask16) : (expandBody m s).owner = s.owner := rfl
@[simp] theorem expandBody_inFlight (m : Mask16) : (expandBody m s).inFlight = s.inFlight := rfl
@[simp] theorem expandBody_env (m : Mask16) : (expandBody m s).env = s.env := rfl
@[simp] theorem expandBody_inputs (m : Mask16) : (expandBody m s).inputs = s.inputs := rfl
@[simp] theorem expandBody_freeCount (m : Mask16) : (expandBody m s).freeCount = s.freeCount := rfl

/-! ### encodeBody -/

@[simp] theorem encodeBody_cfg (a v : Byte) : (encodeBody a v s).cfg = s.cfg := rfl
@[simp] theorem encodeBody_session (a v : Byte) : (encodeBody a v s).session = s.session := rfl
@[simp] theorem encodeBody_ctl (a v : Byte) : (encodeBody a v s).ctl = s.ctl := rfl
@[simp] theorem encodeBody_port (a v : Byte) : (encodeBody a v s).port = s.port := rfl
@[simp] theorem encodeBody_pins (a v : Byte) : (encodeBody a v s).pins = s.pins := rfl
@[simp] theorem encodeBody_owner (a v : Byte) : (encodeBody a v s).owner = s.owner := rfl
@[simp] theorem encodeBody_inFlight (a v : Byte) : (encodeBody a v s).inFlight = s.inFlight := rfl
@[simp] theorem encodeBody_env (a v : Byte) : (encodeBody a v s).env = s.env := rfl
@[simp] theorem encodeBody_inputs (a v : Byte) : (encodeBody a v s).inputs = s.inputs := rfl
@[simp] theorem encodeBody_freeCount (a v : Byte) : (encodeBody a v s).freeCount = s.freeCount := rfl

/-! ### configureCommit -/

@[simp] theorem configureCommit_cfg : (configureCommit s).cfg = s.cfg := rfl
@[simp] theorem configureCommit_session : (configureCommit s).session = s.session := rfl
@[simp] theorem configureCommit_tx : (configureCommit s).tx = s.tx := rfl
@[simp] theorem configureCommit_buf : (configureCommit s).buf = s.buf := rfl
@[simp] theorem configureCommit_port : (configureCommit s).port = s.port := rfl
@[simp] theorem configureCommit_inFlight : (configureCommit s).inFlight = s.inFlight := rfl
@[simp] theorem configureCommit_env : (configureCommit s).env = s.env := rfl
@[simp] theorem configureCommit_inputs : (configureCommit s).inputs = s.inputs := rfl
@[simp] theorem configureCommit_freeCount : (configureCommit s).freeCount = s.freeCount := rfl

/-! ### enterResetAsserted -/

@[simp] theorem enterResetAsserted_cfg : (enterResetAsserted s).cfg = s.cfg := rfl
@[simp] theorem enterResetAsserted_tx : (enterResetAsserted s).tx = s.tx := rfl
@[simp] theorem enterResetAsserted_buf : (enterResetAsserted s).buf = s.buf := rfl
@[simp] theorem enterResetAsserted_port : (enterResetAsserted s).port = s.port := rfl
@[simp] theorem enterResetAsserted_env : (enterResetAsserted s).env = s.env := rfl
@[simp] theorem enterResetAsserted_inputs : (enterResetAsserted s).inputs = s.inputs := rfl
@[simp] theorem enterResetAsserted_freeCount : (enterResetAsserted s).freeCount = s.freeCount := rfl

/-! ### enterResetReleased -/

@[simp] theorem enterResetReleased_cfg : (enterResetReleased s).cfg = s.cfg := rfl
@[simp] theorem enterResetReleased_tx : (enterResetReleased s).tx = s.tx := rfl
@[simp] theorem enterResetReleased_buf : (enterResetReleased s).buf = s.buf := rfl
@[simp] theorem enterResetReleased_ctl : (enterResetReleased s).ctl = s.ctl := rfl
@[simp] theorem enterResetReleased_port : (enterResetReleased s).port = s.port := rfl
@[simp] theorem enterResetReleased_owner : (enterResetReleased s).owner = s.owner := rfl
@[simp] theorem enterResetReleased_env : (enterResetReleased s).env = s.env := rfl
@[simp] theorem enterResetReleased_inputs : (enterResetReleased s).inputs = s.inputs := rfl
@[simp] theorem enterResetReleased_freeCount : (enterResetReleased s).freeCount = s.freeCount := rfl

/-! ### enterAwaitingClockStable -/

@[simp] theorem enterAwaitingClockStable_cfg : (enterAwaitingClockStable s).cfg = s.cfg := rfl
@[simp] theorem enterAwaitingClockStable_tx : (enterAwaitingClockStable s).tx = s.tx := rfl
@[simp] theorem enterAwaitingClockStable_buf : (enterAwaitingClockStable s).buf = s.buf := rfl
@[simp] theorem enterAwaitingClockStable_ctl : (enterAwaitingClockStable s).ctl = s.ctl := rfl
@[simp] theorem enterAwaitingClockStable_port : (enterAwaitingClockStable s).port = s.port := rfl
@[simp] theorem enterAwaitingClockStable_owner : (enterAwaitingClockStable s).owner = s.owner := rfl
@[simp] theorem enterAwaitingClockStable_env : (enterAwaitingClockStable s).env = s.env := rfl
@[simp] theorem enterAwaitingClockStable_inputs : (enterAwaitingClockStable s).inputs = s.inputs := rfl
@[simp] theorem enterAwaitingClockStable_freeCount : (enterAwaitingClockStable s).freeCount = s.freeCount := rfl

/-! ### shutDownBody -/

@[simp] theorem shutDownBody_cfg : (shutDownBody s).cfg = s.cfg := rfl
@[simp] theorem shutDownBody_session : (shutDownBody s).session = s.session := rfl
@[simp] theorem shutDownBody_tx : (shutDownBody s).tx = s.tx := rfl
@[simp] theorem shutDownBody_buf : (shutDownBody s).buf = s.buf := rfl
@[simp] theorem shutDownBody_port : (shutDownBody s).port = s.port := rfl
@[simp] theorem shutDownBody_inFlight : (shutDownBody s).inFlight = s.inFlight := rfl
@[simp] theorem shutDownBody_env : (shutDownBody s).env = s.env := rfl
@[simp] theorem shutDownBody_inputs : (shutDownBody s).inputs = s.inputs := rfl
@[simp] theorem shutDownBody_freeCount : (shutDownBody s).freeCount = s.freeCount := rfl

/-! ### enterReady -/

@[simp] theorem enterReady_cfg : (enterReady s).cfg = s.cfg := rfl
@[simp] theorem enterReady_tx : (enterReady s).tx = s.tx := rfl
@[simp] theorem enterReady_buf : (enterReady s).buf = s.buf := rfl
@[simp] theorem enterReady_ctl : (enterReady s).ctl = s.ctl := rfl
@[simp] theorem enterReady_pins : (enterReady s).pins = s.pins := rfl
@[simp] theorem enterReady_env : (enterReady s).env = s.env := rfl
@[simp] theorem enterReady_inputs : (enterReady s).inputs = s.inputs := rfl

/-! ### enterFailed -/

@[simp] theorem enterFailed_cfg : (enterFailed s).cfg = s.cfg := rfl
@[simp] theorem enterFailed_tx : (enterFailed s).tx = s.tx := rfl
@[simp] theorem enterFailed_buf : (enterFailed s).buf = s.buf := rfl
@[simp] theorem enterFailed_ctl : (enterFailed s).ctl = s.ctl := rfl
@[simp] theorem enterFailed_pins : (enterFailed s).pins = s.pins := rfl
@[simp] theorem enterFailed_owner : (enterFailed s).owner = s.owner := rfl
@[simp] theorem enterFailed_env : (enterFailed s).env = s.env := rfl
@[simp] theorem enterFailed_inputs : (enterFailed s).inputs = s.inputs := rfl

/-! ### prepareWrite -/

@[simp] theorem prepareWrite_cfg (a v : Byte) : (prepareWrite a v s).cfg = s.cfg := rfl
@[simp] theorem prepareWrite_session (a v : Byte) : (prepareWrite a v s).session = s.session := rfl
@[simp] theorem prepareWrite_port (a v : Byte) : (prepareWrite a v s).port = s.port := rfl
@[simp] theorem prepareWrite_inFlight (a v : Byte) : (prepareWrite a v s).inFlight = s.inFlight := rfl
@[simp] theorem prepareWrite_env (a v : Byte) : (prepareWrite a v s).env = s.env := rfl
@[simp] theorem prepareWrite_inputs (a v : Byte) : (prepareWrite a v s).inputs = s.inputs := rfl
@[simp] theorem prepareWrite_freeCount (a v : Byte) : (prepareWrite a v s).freeCount = s.freeCount := rfl

/-! ### hardwareReset -/

@[simp] theorem hardwareReset_cfg : (hardwareReset s).cfg = s.cfg := rfl
@[simp] theorem hardwareReset_env : (hardwareReset s).env = s.env := rfl
@[simp] theorem hardwareReset_inputs : (hardwareReset s).inputs = s.inputs := rfl
@[simp] theorem hardwareReset_freeCount : (hardwareReset s).freeCount = s.freeCount := rfl

/-! ### haltEvent -/

@[simp] theorem haltEvent_cfg : (haltEvent s).cfg = s.cfg := by
  unfold haltEvent; split <;> rfl
@[simp] theorem haltEvent_session : (haltEvent s).session = s.session := by
  unfold haltEvent; split <;> rfl
@[simp] theorem haltEvent_tx : (haltEvent s).tx = s.tx := by
  unfold haltEvent; split <;> rfl
@[simp] theorem haltEvent_buf : (haltEvent s).buf = s.buf := by
  unfold haltEvent; split <;> rfl
@[simp] theorem haltEvent_port : (haltEvent s).port = s.port := by
  unfold haltEvent; split <;> rfl
@[simp] theorem haltEvent_owner : (haltEvent s).owner = s.owner := by
  unfold haltEvent; split <;> rfl
@[simp] theorem haltEvent_inFlight : (haltEvent s).inFlight = s.inFlight := by
  unfold haltEvent; split <;> rfl
@[simp] theorem haltEvent_env : (haltEvent s).env = s.env := by
  unfold haltEvent; split <;> rfl
@[simp] theorem haltEvent_inputs : (haltEvent s).inputs = s.inputs := by
  unfold haltEvent; split <;> rfl
@[simp] theorem haltEvent_freeCount : (haltEvent s).freeCount = s.freeCount := by
  unfold haltEvent; split <;> rfl

/-! ### The fields of what is written -/

@[simp] theorem accept_busy : (accept s).port.busy = true := rfl
@[simp] theorem waitFor_inFlight (f : InFlight) : (waitFor f s).inFlight = f := rfl
@[simp] theorem accept_rspValid : (accept s).port.rspValid = false := rfl

@[simp] theorem writeResponse_busy (c : BitVec 4) (st : BitVec 3) (i : Byte) (w : Option (Word32 × Word32)) :
    (writeResponse c st i w s).port.busy = false := rfl
@[simp] theorem writeResponse_rspValid (c : BitVec 4) (st : BitVec 3) (i : Byte) (w : Option (Word32 × Word32)) :
    (writeResponse c st i w s).port.rspValid = true := rfl
@[simp] theorem writeResponse_inFlight (c : BitVec 4) (st : BitVec 3) (i : Byte)
    (w : Option (Word32 × Word32)) : (writeResponse c st i w s).inFlight = .idle := rfl

@[simp] theorem succeed_busy (c : Success) (i : Byte) : (succeed c i s).port.busy = false := rfl
@[simp] theorem succeed_rspValid (c : Success) (i : Byte) : (succeed c i s).port.rspValid = true := rfl
@[simp] theorem succeed_rspCode (c : Success) (i : Byte) : (succeed c i s).port.rspCode = c.code := rfl
@[simp] theorem succeed_rspStage (c : Success) (i : Byte) : (succeed c i s).port.rspStage = 0 := rfl
@[simp] theorem succeed_rspInfo (c : Success) (i : Byte) : (succeed c i s).port.rspInfo = i := rfl
@[simp] theorem succeed_inFlight (c : Success) (i : Byte) : (succeed c i s).inFlight = .idle := rfl

@[simp] theorem raise_busy (f : Failure) : (raise f s).port.busy = false := rfl
@[simp] theorem raise_rspValid (f : Failure) : (raise f s).port.rspValid = true := rfl
@[simp] theorem raise_rspCode (f : Failure) : (raise f s).port.rspCode = f.code := rfl
@[simp] theorem raise_rspStage (f : Failure) : (raise f s).port.rspStage = f.stage := rfl
@[simp] theorem raise_rspInfo (f : Failure) : (raise f s).port.rspInfo = f.info := rfl
@[simp] theorem raise_inFlight (f : Failure) : (raise f s).inFlight = .idle := rfl
@[simp] theorem raise_mismatch_rspExpected (x y : Word32) :
    (raise (.handshakeMismatch x y) s).port.rspExpected = x := rfl
@[simp] theorem raise_mismatch_rspObserved (x y : Word32) :
    (raise (.handshakeMismatch x y) s).port.rspObserved = y := rfl

@[simp] theorem presentCycle_dataOut (k : Fin 8) : (presentCycle k s).pins.dataOut = s.buf.dataBuf[k] := rfl
@[simp] theorem presentCycle_dataOe0 (k : Fin 8) :
    (presentCycle k s).pins.dataOe0 = s.buf.dirBuf.getLsbD (2 * k.val) := rfl
@[simp] theorem presentCycle_dataOe1 (k : Fin 8) :
    (presentCycle k s).pins.dataOe1 = s.buf.dirBuf.getLsbD (2 * k.val + 1) := rfl
@[simp] theorem presentCycle_resetOut (k : Fin 8) : (presentCycle k s).pins.resetOut = s.pins.resetOut := rfl
@[simp] theorem presentCycle_stpLevel (k : Fin 8) : (presentCycle k s).pins.stpLevel = s.pins.stpLevel := rfl

@[simp] theorem releaseData_pins :
    (releaseData s).pins = { s.pins with dataOe0 := false, dataOe1 := false } := rfl

@[simp] theorem haltAll_ctl : (haltAll s).ctl =
    { s.ctl with runHalted := s.ctl.running || s.ctl.runHalted, running := false } := rfl
@[simp] theorem haltAll_pins : (haltAll s).pins = { s.pins with dataOe0 := false, dataOe1 := false } := rfl

@[simp] theorem autoHalt_ctl : (autoHalt s).ctl = { s.ctl with running := false, runDone := true } := rfl
@[simp] theorem autoHalt_pins : (autoHalt s).pins = { s.pins with dataOe0 := false, dataOe1 := false } := rfl

@[simp] theorem captureCycle_ctl (n : Nat) (b : Bool) :
    (captureCycle n b s).ctl = { s.ctl with cyc := BitVec.ofNat 4 (n + 1) } := rfl
@[simp] theorem captureCycle_buf (n : Nat) (b : Bool) :
    (captureCycle n b s).buf = { s.buf with capBuf := writeBit s.buf.capBuf n b } := rfl

@[simp] theorem startTrigger_ctl : (startTrigger s).ctl =
    { s.ctl with cyc := 0, runDone := false, runHalted := false, running := true } := rfl
@[simp] theorem startTrigger_buf : (startTrigger s).buf = { s.buf with capBuf := 0 } := rfl

@[simp] theorem expandBody_tx (m : Mask16) : (expandBody m s).tx = { s.tx with driveMask := m } := rfl
@[simp] theorem expandBody_buf (m : Mask16) : (expandBody m s).buf = { s.buf with dirBuf := expand16 m } := rfl

@[simp] theorem encodeBody_tx (a v : Byte) : (encodeBody a v s).tx =
    { commandByte := commandByteOf a, valueByte := v, driveMask := driveMaskWrite,
      expectedHandshake := expectedHandshakeWrite } := rfl
@[simp] theorem encodeBody_buf (a v : Byte) : (encodeBody a v s).buf =
    { s.buf with dataBuf := frame s.cfg.idleCode (commandByteOf a) v, stpBuf := s.cfg.stpPatternWrite } := rfl

@[simp] theorem configureCommit_ctl : (configureCommit s).ctl =
    { s.ctl with configured := true, cyc := 0, runDone := false, runHalted := false,
                 chData := programmed s.cfg.desc.data, chStp := programmed s.cfg.desc.stp,
                 chNxt := programmed s.cfg.desc.nxt } := rfl
@[simp] theorem configureCommit_pins : (configureCommit s).pins =
    { s.pins with stpLevel := false, dataOe0 := false, dataOe1 := false } := rfl
@[simp] theorem configureCommit_owner : (configureCommit s).owner =
    OwnerMap.setAll .controller
      (s.cfg.desc.data.pins ++ s.cfg.desc.stp.pins ++ s.cfg.desc.nxt.pins) s.owner := rfl

@[simp] theorem shutDownBody_ctl : (shutDownBody s).ctl =
    { s.ctl with configured := false, runHalted := s.ctl.running || s.ctl.runHalted, running := false } := rfl
@[simp] theorem shutDownBody_pins :
    (shutDownBody s).pins = { s.pins with dataOe0 := false, dataOe1 := false } := rfl
@[simp] theorem shutDownBody_owner :
    (shutDownBody s).owner = OwnerMap.release (Pin.dataPins ++ [.nxt, .stp]) s.owner := by rw [shutDownBody]

@[simp] theorem prepareWrite_tx (a v : Byte) : (prepareWrite a v s).tx =
    { commandByte := commandByteOf a, valueByte := v, driveMask := driveMaskWrite,
      expectedHandshake := expectedHandshakeWrite } := rfl
@[simp] theorem prepareWrite_buf (a v : Byte) : (prepareWrite a v s).buf =
    { dataBuf := frame s.cfg.idleCode (commandByteOf a) v, dirBuf := expand16 driveMaskWrite,
      stpBuf := s.cfg.stpPatternWrite, capBuf := s.buf.capBuf } := by
  simp only [prepareWrite, expandStored, expandBody_buf, encodeBody_buf, encodeBody_tx, configureCommit_cfg, configureCommit_buf]
@[simp] theorem prepareWrite_ctl (a v : Byte) : (prepareWrite a v s).ctl = (configureCommit s).ctl := rfl
@[simp] theorem prepareWrite_pins (a v : Byte) : (prepareWrite a v s).pins = (configureCommit s).pins := rfl
@[simp] theorem prepareWrite_owner (a v : Byte) : (prepareWrite a v s).owner = (configureCommit s).owner := rfl

end Sys2Proof.Machine
end

