-- ==== Sys2Proof/Laws/Ops.lean ====
section
/-! SUPPORT. What each shared operation can do, said once: ownership, the bit operations, the engine step, the
events of an instant, and the waits. -/

namespace Sys2Proof.Machine

/-! ### Ownership -/

theorem OwnerMap.get_set (m : OwnerMap) (p q : Pin) (o : Owner) :
    (m.set p o).get q = if q = p then o else m.get q := by
  cases p <;> cases q <;> rfl

theorem OwnerMap.get_setAll (o : Owner) (ps : List Pin) (m : OwnerMap) (q : Pin) :
    (OwnerMap.setAll o ps m).get q = if q ∈ ps then o else m.get q := by
  induction ps generalizing m with
  | nil => simp [OwnerMap.setAll]
  | cons p ps ih =>
    rw [OwnerMap.setAll, ih, OwnerMap.get_set]
    by_cases hq : q ∈ ps
    · simp [hq]
    · by_cases hp : q = p <;> simp [hq, hp]

theorem OwnerMap.get_release (ps : List Pin) (m : OwnerMap) (q : Pin) :
    (OwnerMap.release ps m).get q = if q ∈ ps ∧ m.get q = .controller then .free else m.get q := by
  induction ps generalizing m with
  | nil => simp [OwnerMap.release]
  | cons p ps ih =>
    rw [OwnerMap.release, ih]
    by_cases hp : m.get p = .controller
    · rw [if_pos hp, OwnerMap.get_set]
      by_cases hq : q = p
      · subst hq; simp [hp]
      · simp [hq]
    · rw [if_neg hp]
      by_cases hq : q = p
      · subst hq; simp [hp]
      · simp [hq]

/-- Two ownership maps with the same owner of every pin are equal. -/
theorem OwnerMap.ext_get {m n : OwnerMap} (h : ∀ p, m.get p = n.get p) : m = n := by
  cases m; cases n
  simp only [OwnerMap.mk.injEq]
  exact ⟨h .data0, h .data1, h .data2, h .data3, h .data4, h .data5, h .data6, h .data7, h .stp, h .nxt,
    h .dir, h .reset, h .clk⟩

@[simp] theorem OwnerMap.get_stp (m : OwnerMap) : m.get .stp = m.stp := rfl
@[simp] theorem OwnerMap.get_dir (m : OwnerMap) : m.get .dir = m.dir := rfl
@[simp] theorem OwnerMap.get_reset (m : OwnerMap) : m.get .reset = m.reset := rfl
@[simp] theorem OwnerMap.get_clk (m : OwnerMap) : m.get .clk = m.clk := rfl

theorem ownersAtBringUp_get (m : OwnerMap) (q : Pin) :
    (ownersAtBringUp m).get q =
      if q ∈ [Pin.reset, .dir, .stp] then .session
      else if q ∈ Pin.dataPins ++ [.nxt] then .free else m.get q := by
  rw [ownersAtBringUp, OwnerMap.get_setAll, OwnerMap.get_setAll]

theorem pinAvailable_iff (s : State) (p : Pin) :
    pinAvailable s p = true ↔ p ∉ s.env.unavailable ∧ s.owner.get p ≠ .session := by
  simp [pinAvailable]

/-! ### Bits -/

theorem three_getLsbD (j : Nat) : (3#32).getLsbD j = decide (j < 2) := by
  rcases Nat.lt_or_ge j 32 with h | h
  · interval_cases j <;> rfl
  · rw [BitVec.getLsbD_of_ge _ _ h]; simp; omega

/-- A written bit reads as written, and every other bit reads as before. -/
theorem writeBit_getLsbD (w : Word32) (k : Nat) (b : Bool) (i : Nat) (hi : i < 32) :
    (writeBit w k b).getLsbD i = if i = k then b else w.getLsbD i := by
  have one : (1#32).getLsbD (i - k) = decide (i - k = 0) := by simp [BitVec.getLsbD_one]
  by_cases h : i = k
  · subst h
    cases b <;> simp [writeBit, hi]
  · have : ¬ i < k → (1#32).getLsbD (i - k) = false := by
      intro h'; rw [one]; simp; omega
    by_cases h' : i < k <;> cases b <;> simp [writeBit, hi, h, h'] <;> omega

theorem expandBelow_getLsbD (m : Mask16) (n i : Nat) (hi : i < 32) :
    (expandBelow m n).getLsbD i = (decide (i / 2 < n) && m.getLsbD (i / 2)) := by
  induction n with
  | zero => simp [expandBelow]
  | succ n ih =>
    by_cases hm : m.getLsbD n
    · rw [expandBelow, if_pos hm, BitVec.getLsbD_or, ih, BitVec.getLsbD_shiftLeft, three_getLsbD]
      by_cases h : i / 2 = n
      · subst h; simp [hm, hi]; omega
      · have : (i / 2 < n + 1) = (i / 2 < n) := by simp; omega
        simp only [this, hi, decide_true, Bool.true_and]
        by_cases h2 : i < 2 * n
        · simp [h2]
        · have h3 : ¬ i - 2 * n < 2 := by omega
          simp [h2, h3]
    · rw [expandBelow, if_neg hm, ih]
      by_cases h : i / 2 = n
      · subst h; simp [hm]
      · have : (i / 2 < n + 1) = (i / 2 < n) := by simp; omega
        simp only [this]

/-- Each code bit is the mask bit of its cycle. -/
theorem expand16_getLsbD (m : Mask16) (i : Nat) (hi : i < 32) :
    (expand16 m).getLsbD i = m.getLsbD (i / 2) := by
  rw [expand16, expandBelow_getLsbD _ _ _ hi]
  have : i / 2 < 16 := by omega
  simp [this]

/-! ### Outcomes -/

@[simp] theorem andThen_next (s : State) (f : State → Result) : andThen (.next s) f = f s := rfl
@[simp] theorem andThen_fault (e : Fault) (f : State → Result) : andThen (.fault e) f = .fault e := rfl
@[simp] theorem andThen_refused (e : Refusal) (f : State → Result) : andThen (.refused e) f = .refused e := rfl

theorem andThen_eq_next {r : Result} {f : State → Result} {t : State} :
    andThen r f = .next t ↔ ∃ s, r = .next s ∧ f s = .next t := by
  cases r <;> simp

/-! ### The engine and the events of an instant -/

/-- What an engine step can do: it is inside the buffers, and it presents the next cycle or halts at the limit. -/
theorem engineStep_cases {n : Bool} {s t : State} (h : engineStep n s = .next t) :
    (s.cfg.cycleLimit ≤ 8 ∧ s.ctl.cyc.toNat < s.cfg.cycleLimit) ∧
    ((∃ k : Fin 8, k.val = s.ctl.cyc.toNat + 1 ∧ s.ctl.cyc.toNat + 1 < s.cfg.cycleLimit ∧
        t = presentCycle k (captureCycle s.ctl.cyc.toNat n s)) ∨
      (s.ctl.cyc.toNat + 1 = s.cfg.cycleLimit ∧ t = autoHalt (captureCycle s.ctl.cyc.toNat n s))) := by
  unfold engineStep at h
  split at h
  · rename_i hb
    refine ⟨hb, ?_⟩
    split at h
    · rename_i hk
      cases h
      exact .inl ⟨_, rfl, hk, rfl⟩
    · cases h
      exact .inr ⟨by omega, rfl⟩
  · cases h

/-- An engine step before the last cycle. -/
theorem engineStep_inner {n : Bool} {s : State} (k : Fin 8) (h8 : s.cfg.cycleLimit ≤ 8)
    (hk : k.val = s.ctl.cyc.toNat + 1) (hl : s.ctl.cyc.toNat + 1 < s.cfg.cycleLimit) :
    engineStep n s = .next (presentCycle k (captureCycle s.ctl.cyc.toNat n s)) := by
  have hb : s.cfg.cycleLimit ≤ 8 ∧ s.ctl.cyc.toNat < s.cfg.cycleLimit := ⟨h8, by omega⟩
  have : k = ⟨s.ctl.cyc.toNat + 1, Nat.lt_of_lt_of_le hl h8⟩ := Fin.ext hk
  rw [engineStep, dif_pos hb, dif_pos hl, this]

/-- The engine step of the last cycle. -/
theorem engineStep_last {n : Bool} {s : State} (h8 : s.cfg.cycleLimit ≤ 8)
    (hl : s.ctl.cyc.toNat + 1 = s.cfg.cycleLimit) :
    engineStep n s = .next (autoHalt (captureCycle s.ctl.cyc.toNat n s)) := by
  have hb : s.cfg.cycleLimit ≤ 8 ∧ s.ctl.cyc.toNat < s.cfg.cycleLimit := ⟨h8, by omega⟩
  have hn : ¬ s.ctl.cyc.toNat + 1 < s.cfg.cycleLimit := by omega
  rw [engineStep, dif_pos hb, dif_neg hn]

/-- What the events of an instant can do: an engine step or none, then a halt or none. -/
theorem events_cases {s t : State} (h : events s = .next t) :
    ∃ u, ((s.env.phyClk = true ∧ s.ctl.running = true ∧ engineStep (nxtIn s) s = .next u) ∨
        ((s.env.phyClk = false ∨ s.ctl.running = false) ∧ u = s)) ∧
      ((s.env.haltReq = true ∧ t = haltAll u) ∨ (s.env.haltReq = false ∧ t = u)) := by
  rw [events, andThen_eq_next] at h
  obtain ⟨u, hu, ht⟩ := h
  have hu' : (s.env.phyClk = true ∧ s.ctl.running = true ∧ engineStep (nxtIn s) s = .next u) ∨
      ((s.env.phyClk = false ∨ s.ctl.running = false) ∧ u = s) := by
    unfold clockEvent at hu
    split at hu
    · rename_i hc
      rw [Bool.and_eq_true] at hc
      exact .inl ⟨hc.1, hc.2, hu⟩
    · rename_i hc
      cases hu
      exact .inr ⟨by cases hp : s.env.phyClk <;> simp_all, rfl⟩
  have henv : u.env = s.env := by
    rcases hu' with ⟨_, _, he⟩ | ⟨_, rfl⟩
    · rcases engineStep_cases he with ⟨_, ⟨_, _, _, rfl⟩ | ⟨_, rfl⟩⟩ <;> rfl
    · rfl
  refine ⟨u, hu', ?_⟩
  unfold haltEvent at ht
  split at ht <;> rename_i hh <;> rw [henv] at hh <;> cases ht
  · exact .inl ⟨hh, rfl⟩
  · exact .inr ⟨by simpa using hh, rfl⟩

/-- With the channels stopped the events of an instant are a halt request at most. -/
theorem events_of_not_running {s : State} (h : s.ctl.running = false) : events s = .next (haltEvent s) := by
  simp [events, clockEvent, h]

/-! ### The waits -/

/-- What `VALIDATE`'s response can be. -/
theorem validateResponse_cases (s : State) :
    (s.buf.capBuf = s.tx.expectedHandshake ∧ validateResponse s = succeed .ok 0 s) ∨
    (s.buf.capBuf ≠ s.tx.expectedHandshake ∧
      validateResponse s = raise (.handshakeMismatch s.tx.expectedHandshake s.buf.capBuf) s) := by
  unfold validateResponse
  split
  · exact .inl ⟨‹_›, rfl⟩
  · exact .inr ⟨‹_›, rfl⟩

/-- Every response of this block leaves all but the port, `inFlight` and the count of free values, and ends the
operation. -/
theorem validateResponse_spec (s : State) : ∃ c st i w,
    validateResponse s = writeResponse c st i w s ∧ (c = 0 ∨ c = 4) ∧ (st = 0 ∨ st = 5) := by
  rcases validateResponse_cases s with ⟨_, h⟩ | ⟨_, h⟩
  · exact ⟨_, _, _, _, h, .inl rfl, .inl rfl⟩
  · exact ⟨_, _, _, _, h, .inr rfl, .inr rfl⟩

/-- What one look at the wait of a run can do: nothing while it runs, or a response over the halted channels. -/
theorem waitRun_cases (o : RunOf) (t0 : Nat) (s : State) :
    (s.ctl.running = true ∧ waitRun o t0 s = s) ∨
    (∃ c st i w, waitRun o t0 s = writeResponse c st i w (haltAll s) ∧
      c.toNat ≤ 6 ∧ st ≠ 2 ∧ st ≠ 3) := by
  unfold waitRun
  split
  · rename_i hr
    split
    · exact .inl ⟨hr, rfl⟩
    · split
      · exact .inr ⟨5, 4, 0, none, rfl, by decide, by decide, by decide⟩
      · exact .inl ⟨hr, rfl⟩
  · right
    cases o
    · exact ⟨0, 0, _, none, rfl, by decide, by decide, by decide⟩
    · obtain ⟨c, st, i, w, h, hc, hs⟩ := validateResponse_spec (haltAll s)
      refine ⟨c, st, i, w, h, ?_⟩
      rcases hc with rfl | rfl <;> rcases hs with rfl | rfl <;> decide

/-- What one instant of an operation in progress can do. -/
theorem tick_cases {e : Instant} {s t : State} (h : tick e s = .next t) :
    (e.rstN = false ∧ t = hardwareReset { s with env := e }) ∨
    (e.rstN = true ∧ ∃ u, events { s with env := e } = .next u ∧ t = advance u) := by
  unfold tick at h
  split at h
  · rename_i hr
    rw [andThen_eq_next] at h
    obtain ⟨u, hu, ht⟩ := h
    cases ht
    exact .inr ⟨hr, u, hu, rfl⟩
  · rename_i hr
    cases h
    exact .inl ⟨by simpa using hr, rfl⟩

/-! ### The largest time between two polls -/

/-- When a poll is overdue: in a gap of the schedule, at a time before the next instant. -/
theorem pollOverdue_iff {e : Instant} {s : State} : pollOverdue e s = true ↔
    s.inFlight = .bringUpPoll ∧ s.env.now + s.cfg.pollEps < e.now ∧ overdueAt s < e.now := by
  have h1 : s.session.buDeadline ≤ overdueAt s := Nat.le_add_right ..
  have h2 : overdueAt s ≤ s.session.buDeadline + (s.cfg.pollEps - 1) := Nat.add_le_add_left (Nat.min_le_right ..) _
  have hn : now s = s.env.now := rfl
  simp only [pollOverdue, Bool.and_eq_true, Bool.or_eq_true, decide_eq_true_eq, and_assoc, hn]
  constructor
  · rintro ⟨hf, hg, hd, h⟩; exact ⟨hf, hg, by omega⟩
  · rintro ⟨hf, hg, h⟩; exact ⟨hf, hg, by omega, .inr h⟩

theorem bringUpPoll_of_overdue {e : Instant} {s : State} (h : pollOverdue e s = true) :
    s.inFlight = .bringUpPoll := (pollOverdue_iff.1 h).1

/-- No poll is overdue while the block waits for something else. -/
theorem pollOverdue_of_ne {e : Instant} {s : State} (h : s.inFlight ≠ .bringUpPoll) : pollOverdue e s = false := by
  rw [← Bool.not_eq_true, pollOverdue_iff]; exact fun h' => h h'.1

/-- No poll is overdue where the next instant is within `POLL_EPS`, or not past the deadline. -/
theorem pollOverdue_of_near {e : Instant} {s : State}
    (h : e.now ≤ s.env.now + s.cfg.pollEps ∨ e.now ≤ s.session.buDeadline) : pollOverdue e s = false := by
  have h1 : s.session.buDeadline ≤ overdueAt s := Nat.le_add_right ..
  rw [← Bool.not_eq_true, pollOverdue_iff]; rintro ⟨_, h2, h3⟩; omega

/-- The overdue poll falls at or past the deadline, and no later than `POLL_EPS` after it. -/
theorem overdueAt_bounds (s : State) :
    s.session.buDeadline ≤ overdueAt s ∧ overdueAt s ≤ s.session.buDeadline + s.cfg.pollEps :=
  ⟨Nat.le_add_right .., Nat.add_le_add_left (Nat.le_trans (Nat.min_le_right ..) (Nat.sub_le ..)) _⟩

/-- An overdue poll is a poll, at its own time. -/
theorem overduePoll_eq_pollDir (s : State) : overduePoll s = pollDir { s with env := held (overdueAt s) s.env } := by
  have : s.session.buDeadline ≤ overdueAt s := Nat.le_add_right ..
  unfold overduePoll pollDir
  exact if_congr (by rfl) (if_pos this).symm rfl

/-! ### The looks between two instants -/

/-- What one poll can do: nothing while it waits, or end the operation. -/
theorem pollDir_cases (s : State) :
    (pollDir s = s ∧ dirIn s = true ∧ now s < s.session.buDeadline) ∨
    ((pollDir s).port.busy = false ∧ (pollDir s).inFlight = .idle) := by
  unfold pollDir
  split
  · split
    · exact .inr ⟨rfl, rfl⟩
    · exact .inl ⟨rfl, ‹_›, Nat.lt_of_not_le ‹_›⟩
  · exact .inr ⟨rfl, rfl⟩

/-- A look at the wait of a run is what an instant ends with while a run is in progress. -/
theorem advance_of_run {o : RunOf} {t0 : Nat} {s : State} (h : s.inFlight = o.wait t0) :
    advance s = waitRun o t0 s := by
  cases o <;> simp [advance, h, RunOf.wait]

theorem advance_of_hold {s : State} (h : s.inFlight = .bringUpHold) : advance s = waitHold s := by
  simp [advance, h]

theorem advance_of_settle {s : State} (h : s.inFlight = .bringUpSettle) : advance s = waitSettle s := by
  simp [advance, h]

theorem advance_of_poll {s : State} (h : s.inFlight = .bringUpPoll) : advance s = pollDir s := by
  simp [advance, h]

/-- A look that the block makes by itself is a look, at its own time and the levels of the present instant. -/
theorem ownLook_eq (s : State) : ownLook s = advance { s with env := held (lookTime s) s.env } := by
  unfold ownLook
  split
  · rename_i h
    have ht : lookTime s = overdueAt s := by simp [lookTime, h]
    rw [overduePoll_eq_pollDir, ht, advance_of_poll (by exact h)]
  · rfl

/-- The block's own look while it polls is the overdue poll. -/
theorem ownLook_of_poll {s : State} (h : s.inFlight = .bringUpPoll) : ownLook s = overduePoll s := by
  simp [ownLook, h]

/-- A look of the block's own that is due comes before the instant. -/
theorem lookTime_lt {e : Instant} {s : State} (h : lookDue e s = true) : lookTime s < e.now := by
  unfold lookDue at h
  unfold lookTime
  rw [Bool.and_eq_true] at h
  cases hf : s.inFlight with
  | idle => simp [hf] at h
  | bringUpHold => simpa [hf] using h.2
  | bringUpSettle => simpa [hf] using h.2
  | bringUpPoll => simp only [hf] at h; exact (pollOverdue_iff.1 h.2).2.2
  | run t0 => cases hr : s.cfg.runTimeout <;> simp [hf, hr] at h ⊢; exact h.2
  | writeRun t0 => cases hr : s.cfg.runTimeout <;> simp [hf, hr] at h ⊢; exact h.2

theorem busy_of_lookDue {e : Instant} {s : State} (h : lookDue e s = true) : s.port.busy = true := by
  unfold lookDue at h
  rw [Bool.and_eq_true] at h
  exact h.1

theorem lookDue_idle {e : Instant} {s : State} (h : s.port.busy = false) : lookDue e s = false := by
  simp [lookDue, h]

/-- In the delays of `BRING_UP` no look is due before an instant that is not past the deadline. -/
theorem lookDue_of_delay {e : Instant} {s : State} (hf : s.inFlight = .bringUpHold ∨ s.inFlight = .bringUpSettle)
    (h : e.now ≤ s.session.buDeadline) : lookDue e s = false := by
  rcases hf with hf | hf <;> simp [lookDue, hf, h]

/-- In `AwaitingClockStable` the look due is the overdue poll. -/
theorem lookDue_of_poll {e : Instant} {s : State} (hb : s.port.busy = true) (hf : s.inFlight = .bringUpPoll) :
    lookDue e s = pollOverdue e s := by
  simp [lookDue, hb, hf]

/-- During a run no look is due before an instant that is not past the end of `RUN_TIMEOUT`. -/
theorem lookDue_of_run {o : RunOf} {t0 : Nat} {e : Instant} {s : State} (hf : s.inFlight = o.wait t0)
    (h : ∀ t, s.cfg.runTimeout = some t → e.now ≤ t0 + t) : lookDue e s = false := by
  cases o <;> cases hr : s.cfg.runTimeout <;> simp_all [lookDue, RunOf.wait]

/-- A look that is due moves the operation on: the hold to the settle delay or further, the settle delay to the
polling or further, and anything else to its end. -/
theorem ownLook_moves {e : Instant} {s : State} (h : lookDue e s = true) :
    (ownLook s).port.busy = false ∨
    (s.inFlight = .bringUpHold ∧
      ((ownLook s).inFlight = .bringUpSettle ∨ (ownLook s).inFlight = .bringUpPoll)) ∨
    (s.inFlight = .bringUpSettle ∧ (ownLook s).inFlight = .bringUpPoll) := by
  have settle : ∀ u : State, u.session.buDeadline ≤ now u →
      (waitSettle u).port.busy = false ∨ (waitSettle u).inFlight = .bringUpPoll := by
    intro u hu
    rw [waitSettle, if_pos hu]
    rcases pollDir_cases (enterAwaitingClockStable u) with ⟨h, _⟩ | ⟨h, _⟩
    · exact .inr (by rw [h]; rfl)
    · exact .inl h
  obtain ⟨u, hu, hi, hn, hd, hc⟩ : ∃ u : State, advance u = ownLook s ∧ u.inFlight = s.inFlight ∧
      now u = lookTime s ∧ u.session = s.session ∧ u.cfg = s.cfg :=
    ⟨{ s with env := held (lookTime s) s.env }, (ownLook_eq s).symm, rfl, rfl, rfl, rfl⟩
  rw [← hu]
  have run : ∀ (o : RunOf) (t0 : Nat), s.inFlight = o.wait t0 → (waitRun o t0 u).port.busy = false := by
    intro o t0 hf
    obtain ⟨t, hr⟩ : ∃ t, s.cfg.runTimeout = some t := by
      cases hr : s.cfg.runTimeout <;> cases o <;> simp_all [lookDue, RunOf.wait]
    have ht : now u = t0 + t := by rw [hn]; cases o <;> simp [lookTime, hf, RunOf.wait, hr]
    rcases waitRun_cases o t0 u with ⟨hrun, _⟩ | ⟨_, _, _, _, h, _⟩
    · unfold waitRun
      rw [if_pos hrun, hc, hr]
      simp only []
      rw [if_pos (by rw [ht]; show t ≤ t0 + t - t0; omega)]
      rfl
    · rw [h]; rfl
  cases hf : s.inFlight with
  | idle => simp [lookDue, hf] at h
  | bringUpHold =>
    have ht : u.session.buDeadline ≤ now u := by rw [hn, hd]; simp [lookTime, hf]
    rw [advance_of_hold (hi.trans hf), waitHold, if_pos ht]
    by_cases hs : (enterResetReleased u).session.buDeadline ≤ now (enterResetReleased u)
    · rcases settle _ hs with h | h
      · exact .inl h
      · exact .inr (.inl ⟨rfl, .inr h⟩)
    · exact .inr (.inl ⟨rfl, .inl (by rw [waitSettle, if_neg hs]; rfl)⟩)
  | bringUpSettle =>
    have ht : u.session.buDeadline ≤ now u := by rw [hn, hd]; simp [lookTime, hf]
    rw [advance_of_settle (hi.trans hf)]
    rcases settle u ht with h | h
    · exact .inl h
    · exact .inr (.inr ⟨rfl, h⟩)
  | bringUpPoll =>
    have ht : u.session.buDeadline ≤ now u := by
      rw [hn, hd]; simp only [lookTime, hf]; exact (overdueAt_bounds s).1
    rw [advance_of_poll (hi.trans hf)]
    rcases pollDir_cases u with ⟨_, _, h⟩ | ⟨h, _⟩
    · exact absurd ht (Nat.not_le.2 h)
    · exact .inl h
  | run t0 => exact .inl (by rw [advance_of_run (o := .run) (hi.trans hf)]; exact run .run t0 hf)
  | writeRun t0 =>
    exact .inl (by rw [advance_of_run (o := .writeRegister) (hi.trans hf)]; exact run .writeRegister t0 hf)

theorem catchUp_of_not_due {e : Instant} {s : State} (h : lookDue e s = false) : catchUp e s = s := by
  simp [catchUp, lookBefore, h]

/-- After the looks due before an instant no further look is due before it. -/
theorem catchUp_done (e : Instant) (s : State) : lookDue e (catchUp e s) = false := by
  have last : ∀ u : State, u.inFlight ≠ .bringUpHold → u.inFlight ≠ .bringUpSettle →
      lookDue e (lookBefore e u) = false := by
    intro u h1 h2
    unfold lookBefore
    split
    · rename_i h
      rcases ownLook_moves h with h | ⟨h, _⟩ | ⟨h, _⟩
      · exact lookDue_idle h
      · exact absurd h h1
      · exact absurd h h2
    · rename_i h; simpa using h
  have stop : ∀ u : State, lookDue e u = false → lookBefore e u = u := by
    intro u h; simp [lookBefore, h]
  have two : ∀ u : State, u.inFlight ≠ .bringUpHold → lookDue e (lookBefore e (lookBefore e u)) = false := by
    intro u h1
    cases hd : lookDue e u with
    | false => rw [stop u hd, stop u hd]; exact hd
    | true =>
      rw [show lookBefore e u = ownLook u by simp [lookBefore, hd]]
      rcases ownLook_moves hd with h | ⟨h, _⟩ | ⟨_, h⟩
      · rw [stop _ (lookDue_idle h)]; exact lookDue_idle h
      · exact absurd h h1
      · exact last _ (by rw [h]; exact InFlight.noConfusion) (by rw [h]; exact InFlight.noConfusion)
  unfold catchUp
  cases hd : lookDue e s with
  | false => rw [stop s hd, stop s hd, stop s hd]; exact hd
  | true =>
    rw [show lookBefore e s = ownLook s by simp [lookBefore, hd]]
    rcases ownLook_moves hd with h | ⟨_, h | h⟩ | ⟨_, h⟩
    · rw [stop _ (lookDue_idle h), stop _ (lookDue_idle h)]; exact lookDue_idle h
    all_goals exact two _ (by rw [h]; exact InFlight.noConfusion)

/-- The looks due before an instant are the first of them and then the rest. -/
theorem catchUp_of_due {e : Instant} {s : State} (h : lookDue e s = true) : catchUp e s = catchUp e (ownLook s) := by
  have hb : lookBefore e s = ownLook s := by simp [lookBefore, h]
  have hd := catchUp_done e s
  have : lookBefore e (catchUp e s) = catchUp e s := by simp [lookBefore, hd]
  rw [← this]
  simp only [catchUp, hb]

/-- A property that every look of the block's own keeps holds after the looks due before an instant. -/
theorem catchUp_keeps (P : State → Prop) (hlook : ∀ s, P s → s.port.busy = true → P (ownLook s)) {e : Instant}
    {s : State} (hs : P s) : P (catchUp e s) := by
  have one : ∀ u, P u → P (lookBefore e u) := by
    intro u hu
    unfold lookBefore
    split
    · exact hlook u hu (busy_of_lookDue ‹_›)
    · exact hu
  exact one _ (one _ (one _ hs))

/-! ### Draining the inputs -/

@[simp] theorem drain_nil (s : State) : drain [] s = .next { s with inputs := [] } := rfl

/-- The looks due before the next instant come first. -/
theorem drain_look {e : Instant} {es : List Instant} {s : State} (h : lookDue e s = true) :
    drain (e :: es) s = drain (e :: es) (ownLook s) := by
  simp only [drain, catchUp_of_due h]

theorem drain_idle {es : List Instant} {s : State} (h : s.port.busy = false) :
    drain es s = .next { s with inputs := es } := by
  cases es with
  | nil => rfl
  | cons e es => simp [drain, catchUp_of_not_due (lookDue_idle h), h]

/-- With no look due before it, the next instant is an instant of the operation in progress. -/
theorem drain_busy {e : Instant} {es : List Instant} {s : State} (h : s.port.busy = true)
    (hp : lookDue e s = false) : drain (e :: es) s = andThen (tick e s) (drain es) := by
  simp [drain, catchUp_of_not_due hp, h]

/-- What the next instant can do to an operation in progress: come to it after the looks due before it, or come too
late for it. -/
theorem drain_cons (e : Instant) (es : List Instant) (s : State) :
    ((catchUp e s).port.busy = true ∧ drain (e :: es) s = andThen (tick e (catchUp e s)) (drain es)) ∨
    ((catchUp e s).port.busy = false ∧ drain (e :: es) s = .next { catchUp e s with inputs := e :: es }) := by
  cases h : (catchUp e s).port.busy <;> simp [drain, h]

/-- A property that every instant of an operation in progress and every look of the block's own keep, and that does
not look at the inputs held, is kept by draining. -/
theorem drain_keeps (P : State → Prop) (hin : ∀ s es, P s → P { s with inputs := es }) {es : List Instant}
    (htick : ∀ e ∈ es, ∀ s t, P s → s.port.busy = true → tick e s = .next t → P t)
    (hlook : ∀ s, P s → s.port.busy = true → P (ownLook s))
    {s t : State} (hs : P s) (h : drain es s = .next t) : P t := by
  induction es generalizing s with
  | nil => cases h; exact hin _ _ hs
  | cons e es ih =>
    have hc : P (catchUp e s) := catchUp_keeps P hlook hs
    rcases drain_cons e es s with ⟨hb, hd⟩ | ⟨_, hd⟩ <;> rw [hd] at h
    · rw [andThen_eq_next] at h
      obtain ⟨u, hu, h⟩ := h
      exact ih (fun e' he' => htick e' (List.mem_cons_of_mem _ he'))
        (htick e (List.mem_cons_self ..) _ u hc hb hu) h
    · cases h; exact hin _ _ hc

/-- An instant with the levels of the present one and no event is a look. -/
theorem tick_held (t : Nat) (s : State) :
    tick (held t s.env) s = .next (advance { s with env := held t s.env }) := by
  simp [tick, held, events, clockEvent, haltEvent]

/-! ### One step -/

/-- What supplying an instant can do: nothing, or list a free one. -/
theorem supply_cases (s : State) : supply s = s ∨
    supply s = { s with inputs := [Config.freeInstant s.freeCount], freeCount := s.freeCount + 1 } := by
  unfold supply
  split
  · exact .inl rfl
  · exact .inr rfl

theorem nextInstant_cons {s : State} {e : Instant} {rest : List Instant} (h : s.inputs = e :: rest) :
    nextInstant s = { s with env := e, inputs := rest } := by
  simp [nextInstant, h]

/-- A step of a busy block goes on with its operation over the inputs held. -/
theorem step_busy {s : State} {e : Instant} {rest : List Instant} (hb : s.port.busy = true)
    (hin : s.inputs = e :: rest) : step s = drain (e :: rest) s := by
  simp [step, hb, resume, supply, hin]

/-- A step of a ready block: the events of the next instant, and the command port. -/
theorem step_ready {s : State} {e : Instant} {rest : List Instant} (hb : s.port.busy = false)
    (hin : s.inputs = e :: rest) (he : e.rstN = true) :
    step s = andThen (events { s with env := e, inputs := rest }) issue := by
  simp [step, hb, nextInstant_cons hin, he]

/-- A step of a ready block at an instant of reset. -/
theorem step_reset {s : State} {e : Instant} {rest : List Instant} (hb : s.port.busy = false)
    (hin : s.inputs = e :: rest) (he : e.rstN = false) :
    step s = .next (hardwareReset { s with env := e, inputs := rest }) := by
  simp [step, hb, nextInstant_cons hin, he]

/-- What a step can do: go on with the operation in progress, look at the command port, or reset. -/
theorem step_cases {s t : State} (h : step s = .next t) :
    (s.port.busy = true ∧ drain (supply s).inputs (supply s) = .next t) ∨
    (s.port.busy = false ∧ (nextInstant s).env.rstN = true ∧
      ∃ u, events (nextInstant s) = .next u ∧ issue u = .next t) ∨
    (s.port.busy = false ∧ (nextInstant s).env.rstN = false ∧ t = hardwareReset (nextInstant s)) := by
  unfold step at h
  split at h
  · exact .inl ⟨‹_›, h⟩
  · rename_i hb
    have hb : s.port.busy = false := by simpa using hb
    split at h
    · exact .inr (.inl ⟨hb, ‹_›, andThen_eq_next.1 h⟩)
    · rename_i hr
      cases h
      exact .inr (.inr ⟨hb, by simpa using hr, rfl⟩)

end Sys2Proof.Machine
end

