-- ==== Sys2Proof/Laws/Controller.lean ====
section
/-! SUPPORT. The checks of `CONFIGURE`: what each Boolean check says, and the violation reported as the first check
that fails, in one list. -/

namespace Sys2Proof.Machine

/-- `is_pow2` says what its name says (42_bus_controller.md R142). -/
theorem isPow2_iff (n : Nat) : isPow2 n = true ↔ ∃ k, n = 2 ^ k := by
  unfold isPow2
  constructor
  · intro h
    simp only [Bool.and_eq_true, decide_eq_true_eq, beq_iff_eq] at h
    exact (Nat.and_sub_one_eq_zero_iff_isPowerOfTwo (n := n) (by omega)).1 h.2
  · rintro ⟨k, rfl⟩
    have : 1 ≤ 2 ^ k := Nat.one_le_two_pow
    simp [this]

/-- The capacity check as inequalities (R142, sub-cause 4). -/
theorem bufferHolds_iff (d : Descriptor) : bufferHolds d = true ↔
    d.cycleLimit * d.pins.length ≤ 8 * d.bufferLen ∧
      ∀ n, d.directionBufferLen = some n → 2 * d.cycleLimit ≤ 8 * n := by
  unfold bufferHolds
  cases h : d.directionBufferLen <;> simp

/-- The pin check of one channel (R143). -/
theorem allAvailable_iff (s : State) (ps : List Pin) : ps.all (pinAvailable s) = true ↔
    ∀ p ∈ ps, p ∉ s.env.unavailable ∧ s.owner.get p ≠ .session := by
  simp only [List.all_eq_true, pinAvailable_iff]

/-- The direction-buffer check (R142, sub-cause 3). -/
theorem presence_iff (d : Descriptor) :
    (decide (d.mode = .bidirectional) == d.directionBufferLen.isSome) = true ↔
      (d.mode = .bidirectional ↔ d.directionBufferLen ≠ none) := by
  cases d.directionBufferLen <;> simp

/-- The checks of `CONFIGURE` in the order of R229, each with what it reports. -/
def checkList (s : State) : List (Bool × Chan × SubCause) :=
  [ (isPow2 s.cfg.desc.data.bufferLen, .data, .bufLenNotPow2),
    (isPow2 s.cfg.desc.stp.bufferLen, .stp, .bufLenNotPow2),
    (isPow2 s.cfg.desc.nxt.bufferLen, .nxt, .bufLenNotPow2),
    (s.cfg.desc.stp.cycleLimit == s.cfg.desc.data.cycleLimit, .stp, .cycleLimitMismatch),
    (s.cfg.desc.nxt.cycleLimit == s.cfg.desc.data.cycleLimit, .nxt, .cycleLimitMismatch),
    (decide (s.cfg.desc.data.mode = .bidirectional) == s.cfg.desc.data.directionBufferLen.isSome,
      .data, .dirBufPresence),
    (decide (s.cfg.desc.stp.mode = .bidirectional) == s.cfg.desc.stp.directionBufferLen.isSome,
      .stp, .dirBufPresence),
    (decide (s.cfg.desc.nxt.mode = .bidirectional) == s.cfg.desc.nxt.directionBufferLen.isSome,
      .nxt, .dirBufPresence),
    (bufferHolds s.cfg.desc.data, .data, .bufferTooSmall),
    (bufferHolds s.cfg.desc.stp, .stp, .bufferTooSmall),
    (bufferHolds s.cfg.desc.nxt, .nxt, .bufferTooSmall),
    (s.cfg.desc.data.pins.all (pinAvailable s), .data, .pinUnavailable),
    (s.cfg.desc.stp.pins.all (pinAvailable s), .stp, .pinUnavailable),
    (s.cfg.desc.nxt.pins.all (pinAvailable s), .nxt, .pinUnavailable) ]

/-- What the first failing check of a list reports. -/
def firstFailure : List (Bool × Chan × SubCause) → Violation
  | [] => none
  | (good, v) :: rest => if good then firstFailure rest else some v

theorem configureViolation_shape (b1 b2 b3 b4 b5 b6 b7 b8 b9 b10 b11 b12 b13 b14 : Bool) :
    ((((if b1 then (if b2 then (if b3 then none else some (.nxt, .bufLenNotPow2)) else
        some (.stp, .bufLenNotPow2)) else some (.data, .bufLenNotPow2) : Violation).or
      (if b4 then (if b5 then none else some (.nxt, .cycleLimitMismatch)) else
        some (.stp, .cycleLimitMismatch))).or
      ((if b6 then (if b7 then (if b8 then none else some (.nxt, .dirBufPresence)) else
        some (.stp, .dirBufPresence)) else some (.data, .dirBufPresence) : Violation).or
      (if b9 then (if b10 then (if b11 then none else some (.nxt, .bufferTooSmall)) else
        some (.stp, .bufferTooSmall)) else some (.data, .bufferTooSmall)))).or
      (if b12 then (if b13 then (if b14 then none else some (.nxt, .pinUnavailable)) else
        some (.stp, .pinUnavailable)) else some (.data, .pinUnavailable))) =
    firstFailure
      [(b1, .data, .bufLenNotPow2), (b2, .stp, .bufLenNotPow2), (b3, .nxt, .bufLenNotPow2),
        (b4, .stp, .cycleLimitMismatch), (b5, .nxt, .cycleLimitMismatch), (b6, .data, .dirBufPresence),
        (b7, .stp, .dirBufPresence), (b8, .nxt, .dirBufPresence), (b9, .data, .bufferTooSmall),
        (b10, .stp, .bufferTooSmall), (b11, .nxt, .bufferTooSmall), (b12, .data, .pinUnavailable),
        (b13, .stp, .pinUnavailable), (b14, .nxt, .pinUnavailable)] := by
  cases b1; · rfl
  cases b2; · rfl
  cases b3; · rfl
  cases b4; · rfl
  cases b5; · rfl
  cases b6; · rfl
  cases b7; · rfl
  cases b8; · rfl
  cases b9; · rfl
  cases b10; · rfl
  cases b11; · rfl
  cases b12; · rfl
  cases b13; · rfl
  cases b14 <;> rfl

/-- What `CONFIGURE` reports is the first check of the list that fails. -/
theorem configureViolation_eq (s : State) : configureViolation s = firstFailure (checkList s) :=
  configureViolation_shape ..

/-- Acceptance changes nothing that `CONFIGURE` checks. -/
@[simp] theorem configureViolation_accept (s : State) : configureViolation (accept s) = configureViolation s := rfl

/-- With no failing check there is no violation. -/
theorem firstFailure_eq_none {cs : List (Bool × Chan × SubCause)} :
    firstFailure cs = none ↔ ∀ c ∈ cs, c.1 = true := by
  induction cs with
  | nil => simp [firstFailure]
  | cons c cs ih =>
    obtain ⟨g, v⟩ := c
    cases g <;> simp [firstFailure, ih]

end Sys2Proof.Machine
end

