-- ==== Sys2Proof/Laws/Encoding.lean ====
section
/-! SUPPORT. The bits of a command word: its fields, and the word built from fields. -/

namespace Sys2Proof

theorem opField_getLsbD (w : Cmd20) (i : Nat) :
    (opField w).getLsbD i = (decide (i < 4) && w.getLsbD (16 + i)) := by
  simp [opField, BitVec.getLsbD_extractLsb']

theorem aField_getLsbD (w : Cmd20) (i : Nat) :
    (aField w).getLsbD i = (decide (i < 8) && w.getLsbD (8 + i)) := by
  simp [aField, BitVec.getLsbD_extractLsb']

theorem dField_getLsbD (w : Cmd20) (i : Nat) :
    (dField w).getLsbD i = (decide (i < 8) && w.getLsbD i) := by
  simp [dField, BitVec.getLsbD_extractLsb']

theorem maskField_getLsbD (w : Cmd20) (i : Nat) :
    (maskField w).getLsbD i = (decide (i < 16) && w.getLsbD i) := by
  have h : (maskField w).getLsbD i = BitVec.getLsbD (aField w ++ dField w) i := rfl
  rw [h, BitVec.getLsbD_append, aField_getLsbD, dField_getLsbD]
  by_cases h8 : i < 8
  · simp [h8, show i < 16 by omega]
  · rw [show 8 + (i - 8) = i by omega]
    simp [h8, show (i - 8 < 8) = (i < 16) by simp; omega]

theorem cmdWord_getLsbD (op : BitVec 4) (a d : Byte) (i : Nat) :
    (cmdWord op a d).getLsbD i =
      if i < 8 then d.getLsbD i else if i < 16 then a.getLsbD (i - 8) else op.getLsbD (i - 16) := by
  have h : (cmdWord op a d).getLsbD i = BitVec.getLsbD (op ++ a ++ d) i := rfl
  rw [h, BitVec.getLsbD_append, BitVec.getLsbD_append]
  by_cases h8 : i < 8
  · simp [h8]
  · by_cases h16 : i < 16
    · simp [h8, h16, show i - 8 < 8 by omega]
    · simp [h8, h16, show ¬ i - 8 < 8 by omega, show i - 8 - 8 = i - 16 by omega]

@[simp] theorem opField_cmdWord (op : BitVec 4) (a d : Byte) : opField (cmdWord op a d) = op := by
  apply BitVec.eq_of_getLsbD_eq
  intro i hi
  rw [opField_getLsbD, cmdWord_getLsbD]
  simp [hi, show ¬ 16 + i < 8 by omega]

@[simp] theorem aField_cmdWord (op : BitVec 4) (a d : Byte) : aField (cmdWord op a d) = a := by
  apply BitVec.eq_of_getLsbD_eq
  intro i hi
  rw [aField_getLsbD, cmdWord_getLsbD]
  simp [hi, show 8 + i < 16 by omega]

@[simp] theorem dField_cmdWord (op : BitVec 4) (a d : Byte) : dField (cmdWord op a d) = d := by
  apply BitVec.eq_of_getLsbD_eq
  intro i hi
  rw [dField_getLsbD, cmdWord_getLsbD]
  simp [hi]

/-- A word is put together from its fields. -/
theorem cmdWord_fields (w : Cmd20) : cmdWord (opField w) (aField w) (dField w) = w := by
  apply BitVec.eq_of_getLsbD_eq
  intro i hi
  rw [cmdWord_getLsbD, opField_getLsbD, aField_getLsbD, dField_getLsbD]
  by_cases h8 : i < 8
  · simp [h8]
  · by_cases h16 : i < 16
    · simp [h8, h16, show i - 8 < 8 by omega, show 8 + (i - 8) = i by omega]
    · simp [h8, h16, show i - 16 < 4 by omega, show 16 + (i - 16) = i by omega]

/-- What a word can decode to, by its `op`. -/
theorem decode_cases {w : Cmd20} {i : Instr} (h : decode w = .ok i) :
    (opField w = 1 ∧ i = .bringUp) ∨ (opField w = 2 ∧ i = .shutDown) ∨
    (opField w = 3 ∧ i = .writeRegister (aField w) (dField w)) ∨ (opField w = 4 ∧ i = .configure) ∨
    (opField w = 5 ∧ i = .encode (aField w) (dField w)) ∨ (opField w = 6 ∧ i = .expand (maskField w)) ∨
    (opField w = 7 ∧ i = .run) ∨ (opField w = 8 ∧ i = .halt) ∨ (opField w = 9 ∧ i = .validate) := by
  have op_eq : ∀ n, (opField w).toNat = n → opField w = BitVec.ofNat 4 n := by
    intro n hn; rw [← hn]; simp
  unfold decode at h
  split at h <;> cases h <;> rename_i hn <;> simp [op_eq _ hn]

end Sys2Proof
end

