-- ==== Sys2Proof/Laws/PerInstr.lean ====
section
/-! SUPPORT. Laws stated of every operation as syntax, one lemma per constructor. -/

namespace Sys2Proof.Laws.OpcodeField

/-- The number of an operation in the opcode map (30_encoding.md R95). -/
def opOf : Instr → BitVec 4
  | .bringUp => 1
  | .shutDown => 2
  | .writeRegister _ _ => 3
  | .configure => 4
  | .encode _ _ => 5
  | .expand _ => 6
  | .run => 7
  | .halt => 8
  | .validate => 9

/-- The canonical word of an operation carries its number of the opcode map, which is no reserved one (R95, R96). -/
def Statement (i : Instr) : Prop :=
  opField (Sys2Proof.encode i) = opOf i ∧ opOf i ≠ 0 ∧ opOf i < 10

theorem bringUp : Statement .bringUp := by simp [Statement, Sys2Proof.encode, opOf]

theorem shutDown : Statement .shutDown := by simp [Statement, Sys2Proof.encode, opOf]

theorem writeRegister (address value : Byte) : Statement (.writeRegister address value) := by
  simp [Statement, Sys2Proof.encode, opOf]

theorem configure : Statement .configure := by simp [Statement, Sys2Proof.encode, opOf]

theorem encode (address value : Byte) : Statement (.encode address value) := by
  simp [Statement, Sys2Proof.encode, opOf]

theorem expand (mask : Mask16) : Statement (.expand mask) := by simp [Statement, Sys2Proof.encode, opOf]

theorem run : Statement .run := by simp [Statement, Sys2Proof.encode, opOf]

theorem halt : Statement .halt := by simp [Statement, Sys2Proof.encode, opOf]

theorem validate : Statement .validate := by simp [Statement, Sys2Proof.encode, opOf]

end Sys2Proof.Laws.OpcodeField
end

