-- ==== Sys2Proof/Laws/Progress.lean ====
section
/-! SUPPORT. What one look at a wait, one instant, and one operation can do: the inversion lemmas that a statement
about steps starts from. -/

namespace Sys2Proof.Machine

/-! ### Events -/

/-- The events of an instant touch neither the session, the operation in progress, the parameters, the port nor the
inputs. -/
theorem events_frame {s t : State} (h : events s = .next t) :
    t.session = s.session ∧ t.inFlight = s.inFlight ∧ t.cfg = s.cfg ∧ t.port = s.port ∧ t.env = s.env ∧
      t.inputs = s.inputs ∧ t.tx = s.tx ∧ t.owner = s.owner := by
  obtain ⟨u, h1, h2⟩ := events_cases h
  have hu : u.session = s.session ∧ u.inFlight = s.inFlight ∧ u.cfg = s.cfg ∧ u.port = s.port ∧
      u.env = s.env ∧ u.inputs = s.inputs ∧ u.tx = s.tx ∧ u.owner = s.owner := by
    rcases h1 with ⟨_, _, h1⟩ | ⟨_, rfl⟩
    · rcases engineStep_cases h1 with ⟨_, ⟨_, _, _, rfl⟩ | ⟨_, rfl⟩⟩ <;>
        exact ⟨rfl, rfl, rfl, rfl, rfl, rfl, rfl, rfl⟩
    · exact ⟨rfl, rfl, rfl, rfl, rfl, rfl, rfl, rfl⟩
  rcases h2 with ⟨_, rfl⟩ | ⟨_, rfl⟩ <;> exact hu

/-! ### The wait of a run -/

/-- While the channels run and no timeout has expired, a look at the wait changes nothing. -/
theorem waitRun_waits {o : RunOf} {t0 : Nat} {s : State} (hr : s.ctl.running = true)
    (ht : ∀ t, s.cfg.runTimeout = some t → s.env.now - t0 < t) : waitRun o t0 s = s := by
  unfold waitRun
  rw [if_pos hr]
  cases hc : s.cfg.runTimeout with
  | none => rfl
  | some t =>
    have := ht t hc
    exact if_neg (by show ¬ t ≤ s.env.now - t0; omega)

/-- One instant of a run: its events, then the look at the wait. -/
theorem tick_of_run {e : Instant} {s u : State} {o : RunOf} {t0 : Nat} (he : e.rstN = true)
    (h : events { s with env := e } = .next u) (hf : u.inFlight = o.wait t0) :
    tick e s = .next (waitRun o t0 u) := by
  unfold tick
  rw [if_pos he, h, andThen_next, advance_of_run hf]

/-- While a run is in progress an instant not past the end of `RUN_TIMEOUT` is an instant of it. -/
theorem drain_of_run {o : RunOf} {t0 : Nat} {e : Instant} {es : List Instant} {s : State}
    (hb : s.port.busy = true) (hf : s.inFlight = o.wait t0)
    (ht : ∀ t, s.cfg.runTimeout = some t → e.now ≤ t0 + t) :
    drain (e :: es) s = andThen (tick e s) (drain es) :=
  drain_busy hb (lookDue_of_run hf ht)

/-- What the start of a run leaves: it is in progress or has just ended, and no buffer but the capture is
written. -/
theorem beginRun_frame (o : RunOf) (s : State) :
    ((beginRun o s).inFlight = o.wait (now s) ∨ (beginRun o s).inFlight = .idle) ∧
      (beginRun o s).session = s.session ∧ (beginRun o s).inputs = s.inputs ∧ (beginRun o s).cfg = s.cfg ∧
      (beginRun o s).env = s.env ∧ (beginRun o s).tx = s.tx ∧ (beginRun o s).owner = s.owner ∧
      (beginRun o s).buf.dataBuf = s.buf.dataBuf ∧ (beginRun o s).buf.dirBuf = s.buf.dirBuf ∧
      (beginRun o s).buf.stpBuf = s.buf.stpBuf := by
  unfold beginRun
  rcases waitRun_cases o (now s) (waitFor (o.wait (now s)) (startTrigger s)) with ⟨_, h⟩ | ⟨_, _, _, _, h, _⟩ <;>
    rw [h]
  · exact ⟨.inl rfl, rfl, rfl, rfl, rfl, rfl, rfl, rfl, rfl, rfl⟩
  · exact ⟨.inr rfl, rfl, rfl, rfl, rfl, rfl, rfl, rfl, rfl, rfl⟩

/-! ### The waits of bring-up -/

@[simp] theorem pollDir_inputs (s : State) : (pollDir s).inputs = s.inputs := by
  unfold pollDir
  split
  · split <;> rfl
  · rfl

@[simp] theorem waitSettle_inputs (s : State) : (waitSettle s).inputs = s.inputs := by
  unfold waitSettle
  split
  · rw [pollDir_inputs]; rfl
  · rfl

@[simp] theorem waitHold_inputs (s : State) : (waitHold s).inputs = s.inputs := by
  unfold waitHold
  split
  · rw [waitSettle_inputs]; rfl
  · rfl

/-! ### What an operation can answer -/

/-- Every way an operation can answer a next state. -/
inductive ExecNext : Instr → State → State → Prop
  | bringUp (s t : State) : drain s.inputs (waitHold (enterResetAsserted (accept s))) = .next t →
      ExecNext .bringUp s t
  | shutDown (s : State) : ExecNext .shutDown s (succeed .ok 0 (shutDownBody (accept s)))
  | writeRegister (a v : Byte) (s t : State) : addressAdmitted a = true →
      configureViolation (accept s) = none → referenceRunnable (prepareWrite a v (accept s)) = true →
      drain s.inputs (beginRun .writeRegister (prepareWrite a v (accept s))) = .next t →
      ExecNext (.writeRegister a v) s t
  | writeNotConfigured (a v : Byte) (c : Chan) (k : SubCause) (s : State) :
      configureViolation (accept s) = some (c, k) →
      ExecNext (.writeRegister a v) s (raise (.configurationError c k) (accept s))
  | configure (s : State) : configureViolation (accept s) = none →
      ExecNext .configure s (succeed .ok 0 (configureCommit (accept s)))
  | notConfigured (c : Chan) (k : SubCause) (s : State) : configureViolation (accept s) = some (c, k) →
      ExecNext .configure s (raise (.configurationError c k) (accept s))
  | encode (a v : Byte) (s : State) : addressAdmitted a = true →
      ExecNext (.encode a v) s (succeed .ok 0 (encodeBody a v (accept s)))
  | expand (m : Mask16) (s : State) : ExecNext (.expand m) s (succeed .ok 0 (expandBody m (accept s)))
  | run (s t : State) : s.ctl.configured = true → referenceRunnable s = true →
      drain s.inputs (beginRun .run (accept s)) = .next t → ExecNext .run s t
  | illegalRun (s : State) : s.ctl.configured = false → ExecNext .run s (raise .illegalRun (accept s))
  | halt (s : State) : ExecNext .halt s (succeed .ok 0 (haltAll (accept s)))
  | validate (s : State) : ExecNext .validate s (validateResponse (accept s))

/-- The inversion of `exec`: it can answer a next state only so. -/
theorem exec_cases {i : Instr} {s t : State} (h : exec i s = .next t) : ExecNext i s t := by
  cases i with
  | bringUp =>
    simp only [exec, execBringUp, resume, waitHold_inputs] at h
    exact .bringUp s t h
  | shutDown => cases h; exact .shutDown s
  | writeRegister a v =>
    simp only [exec, execWriteRegister] at h
    split at h
    · split at h
      · cases h; exact .writeNotConfigured _ _ _ _ _ ‹_›
      · split at h
        · unfold resume at h
          rw [(beginRun_frame _ _).2.2.1] at h
          exact .writeRegister _ _ _ _ ‹_› ‹_› ‹_› h
        · cases h
    · cases h
  | configure =>
    simp only [exec, execConfigure] at h
    split at h
    · cases h; exact .notConfigured _ _ _ ‹_›
    · cases h; exact .configure _ ‹_›
  | encode a v =>
    simp only [exec, execEncode] at h
    split at h
    · cases h; exact .encode _ _ _ ‹_›
    · cases h
  | expand m => cases h; exact .expand ..
  | run =>
    simp only [exec, execRun] at h
    split at h
    · split at h
      · unfold resume at h
        rw [(beginRun_frame _ _).2.2.1] at h
        exact .run _ _ ‹_› ‹_› h
      · cases h
    · cases h; rename_i hc; exact .illegalRun _ (by simpa using hc)
  | halt => cases h; exact .halt ..
  | validate => cases h; exact .validate ..

end Sys2Proof.Machine
end

