-- ==== Sys2Proof/Tests/Slice0.lean ====
section
/-! SUPPORT. Tests. The expected values are those of spec/95_test_vectors.md (the vector is named at each test) or of
the opcode map (30_encoding.md R95); the witnesses show states that meet the hypotheses of the statements. -/

namespace Sys2Proof.Tests

open Sys2Proof.Machine

/-! ### Small states -/

/-- A platform with concrete values for the OPEN parameters. -/
def params (checks : Bool) (timeout : Option Nat) : Params where
  cycleLimit := 8
  idleCode := 0x00
  stpPatternWrite := 0x00000020
  tResetHold := 1
  tSettle := 2
  tClockDeadline := 3
  pollEps := 2
  runTimeout := timeout
  clockSource := .internal
  sanityChecks := checks
  outEdge := .rising
  inEdge := .falling
  stpAsserted := true
  dirAsserted := true
  nxtAsserted := true
  desc := referenceTable 8 .internal .rising .falling

/-- The plain test platform. -/
abbrev plain : Params := params false none

/-- Right after reset. -/
def base (p : Params) : State := { State.reset with cfg := p }

/-- In `Ready`, not configured. -/
def ready (p : Params) : State :=
  { base p with
    session := { buState := .ready, buDeadline := 0, envPre := .notRun, envPost := .notRun }
    pins := { resetOut := true, stpLevel := false, dataOut := 0, dataOe0 := false, dataOe1 := false }
    owner := { OwnerMap.initial with stp := .free } }

/-- In `Ready`, configured. -/
def configured (p : Params) : State := configureCommit (ready p)

/-- Configured, with the buffers of EN1 and EX1. -/
def loaded (p : Params) : State := expandBody 0x007E (encodeBody 0x3A 0x02 (configured p))

/-- A state with these coming inputs. -/
def given (es : List Instant) (s : State) : State := { s with inputs := es }

/-- A PHY clock cycle with a level on NXT. -/
def clk (n : Bool) : Instant := { quietInstant with phyClk := true, nxtPin := n }

/-- An instant at a time, with a level on DIR. -/
def look (t : Nat) (dir : Bool) : Instant := { quietInstant with now := t, dirPin := dir }

/-- An instant that presents a command word. -/
def word (w : Cmd20) : Instant := { quietInstant with cmd := some w }

/-- The NXT samples of a good write (RN1). -/
def good : List Instant := [clk false, clk false, clk false, clk false, clk true, clk true, clk false, clk false]

/-- A property of the next state, false where there is none. -/
def holds (r : Result) (f : State → Bool) : Bool :=
  match r with
  | .next t => f t
  | .fault _ => false
  | .refused _ => false

/-- The next state, or `s` where there is none. -/
def nextOf (r : Result) (s : State) : State :=
  match r with
  | .next t => t
  | .fault _ => s
  | .refused _ => s

theorem eq_nextOf {r : Result} (s : State) (h : holds r (fun _ => true) = true) : r = .next (nextOf r s) := by
  cases r with
  | next t => rfl
  | fault e => simp [holds] at h
  | refused e => simp [holds] at h

/-- The response fields `rsp_code`, `rsp_stage`, `rsp_info`. -/
def response (t : State) : BitVec 4 × BitVec 3 × Byte := (t.port.rspCode, t.port.rspStage, t.port.rspInfo)

/-! ### Well-formedness: ill-formed terms are refused, the boundary is admitted -/

theorem test_wellFormed_encode_refuses : (Instr.encode 0x40 0x00).wellFormed = false := by decide

theorem test_wellFormed_writeRegister_refuses : (Instr.writeRegister 0xFF 0x00).wellFormed = false := by decide

theorem test_wellFormed_boundary :
    (Instr.encode 0x3F 0xFF).wellFormed = true ∧ (Instr.writeRegister 0x3F 0xFF).wellFormed = true := by decide

/-! ### Decoding of words written out bit by bit from R80 and R95 -/

theorem test_decode_bringUp : decode 0b0001_10101011_11001101#20 = .ok .bringUp := by decide
theorem test_decode_shutDown : decode 0b0010_00000000_00000000#20 = .ok .shutDown := by decide
theorem test_decode_writeRegister :
    decode 0b0011_00111010_00000010#20 = .ok (.writeRegister 0x3A 0x02) := by decide
theorem test_decode_configure : decode 0b0100_00000000_00000000#20 = .ok .configure := by decide
theorem test_decode_encode : decode 0b0101_00010110_10100101#20 = .ok (.encode 0x16 0xA5) := by decide
theorem test_decode_expand : decode 0b0110_00010010_00110100#20 = .ok (.expand 0x1234) := by decide
theorem test_decode_run : decode 0b0111_11111111_11111111#20 = .ok .run := by decide
theorem test_decode_halt : decode 0b1000_00000000_00000000#20 = .ok .halt := by decide
theorem test_decode_validate : decode 0b1001_00000000_00000000#20 = .ok .validate := by decide

/-- DC1, DC2 and DC3. -/
theorem test_decode_reserved : decode 0x00000#20 = .error (.reservedOp 0) ∧
    decode 0xA0000#20 = .error (.reservedOp 10) ∧ decode 0xF3A02#20 = .error (.reservedOp 15) := by decide

theorem test_decodeTableWord : decodeTableWord 24 0x033A02 = some (.writeRegister 0x3A 0x02) ∧
    decodeTableWord 24 0x0A0000 = none := by decide

/-! ### One step of each operation -/

/-- BU6: the answer "pre" fails, the result is `Ready` all the same. -/
theorem test_bringUp_ready :
    holds (exec .bringUp (given
        [look 1 true, { look 3 true with checkPre := .fail 9 }, look 4 false] (base (params true none))))
      (fun t => response t == (1, 0, 0x01) && t.session.buState == .ready && t.owner.stp == .free &&
        t.pins.resetOut && !t.pins.stpLevel) = true := by decide

/-- BU3: DIR stays asserted, the first look at or past the deadline times out. -/
theorem test_bringUp_timeout :
    holds (exec .bringUp (given [look 1 true, look 3 true, look 5 true, look 6 true] (base plain)))
      (fun t => response t == (3, 6, 0x00) && t.session.buState == .failed && t.owner.stp == .session) =
        true := by decide

/-- Gaps: the hold and the settle delay end on their times, at 1 and 3, with the levels of the present instant, and
with DIR asserted the polling ends before the next instant (R183, R185, R188, R195). -/
theorem test_bringUp_gap :
    holds (exec .bringUp (given [look 99 true] (base plain)))
      (fun t => response t == (1, 0, 0x00) && t.env.now == 3 && t.session.buState == .ready && t.pins.resetOut &&
        !t.pins.stpLevel && t.inputs == [look 99 true]) = true ∧
    holds (exec .bringUp { base plain with env := look 0 true, inputs := [look 50 true, look 100 true] })
      (fun t => response t == (3, 6, 0x00) && t.session.buState == .failed &&
        t.inputs == [look 50 true, look 100 true]) = true := by decide

/-- SH1. -/
theorem test_shutDown_ready :
    holds (exec .shutDown (configured plain))
      (fun t => response t == (0, 0, 0) && !t.ctl.configured && t.owner.stp == .free && t.owner.data7 == .free &&
        t.session.buState == .ready && t.pins.resetOut) = true := by decide

/-- SH3. -/
theorem test_shutDown_reset :
    holds (exec .shutDown (base plain))
      (fun t => t.owner.stp == .session && t.pins.stpLevel && !t.pins.resetOut) = true := by decide

/-- WR1. -/
theorem test_writeRegister_ok :
    holds (exec (.writeRegister 0x3A 0x02) (given good (ready plain)))
      (fun t => response t == (0, 0, 0) && t.buf.capBuf == 0x00000030#32 && t.buf.dirBuf == 0x00003FFC#32 &&
        t.buf.dataBuf.toList == [0x00, 0xBA, 0xBA, 0xBA, 0x02, 0x00, 0x00, 0x00] && t.ctl.cyc == 8 &&
        t.ctl.runDone) = true := by decide

/-- WR9: halted after five steps, with NXT asserted in the fifth. -/
theorem test_writeRegister_halted :
    holds (exec (.writeRegister 0x3A 0x02) (given
        (good.take 5 ++ [{ quietInstant with haltReq := true }]) (ready plain)))
      (fun t => response t == (4, 5, 0) && t.port.rspExpected == 0x00000030#32 &&
        t.port.rspObserved == 0x00000010#32 && t.ctl.cyc == 5) = true := by decide

/-- CF1. -/
theorem test_configure_ok :
    holds (exec .configure (ready plain))
      (fun t => response t == (0, 0, 0) && t.ctl.configured && t.owner.stp == .controller &&
        t.owner.data0 == .controller && t.owner.reset == .session) = true := by decide

/-- CF13. -/
theorem test_configure_session :
    holds (exec .configure (base plain)) (fun t => response t == (2, 1, 0x0D) && !t.ctl.configured) = true := by
  decide

/-- EN6. -/
theorem test_encode :
    holds (exec (.encode 0x16 0xA5) (ready plain))
      (fun t => t.buf.dataBuf.toList == [0x00, 0x96, 0x96, 0x96, 0xA5, 0x00, 0x00, 0x00] &&
        t.tx.commandByte == 0x96#8 && t.buf.stpBuf == 0x00000020#32) = true := by decide

/-- EX12. -/
theorem test_expand_mixed :
    holds (exec (.expand 0x1234) (base plain)) (fun t => t.buf.dirBuf == 0x030C0F30#32) = true := by decide

/-- EX7. -/
theorem test_expand_ends :
    holds (exec (.expand 0x8001) (base plain)) (fun t => t.buf.dirBuf == 0xC0000003#32) = true := by decide

/-- RN5. -/
theorem test_run_complete :
    holds (exec .run (given (good.take 7 ++ [clk true]) (loaded plain)))
      (fun t => response t == (0, 0, 0) && t.buf.capBuf == 0x000000B0#32 && t.ctl.runDone && !t.ctl.running) =
        true := by decide

/-- RN8: the clock stops after three cycles; the pins hold the outputs of cycle 3. -/
theorem test_run_stalled :
    holds (exec .run (given (good.take 3) (loaded plain)))
      (fun t => t.port.busy && t.ctl.running && t.ctl.cyc == 3 && t.pins.dataOut == 0xBA#8 && t.pins.dataOe0) =
        true := by decide

/-- SH4. -/
theorem test_halt_idle :
    holds (exec .halt (configured plain)) (fun t => response t == (0, 0, 0) && t.ctl == (configured plain).ctl) =
      true := by decide

/-- VA12. -/
theorem test_validate_mismatch :
    holds (exec .validate { loaded plain with buf := { (loaded plain).buf with capBuf := 0x80000030 } })
      (fun t => response t == (4, 5, 0) && t.port.rspObserved == 0x80000030#32) = true := by decide

/-- VA1. -/
theorem test_validate_ok :
    holds (exec .validate { loaded plain with buf := { (loaded plain).buf with capBuf := 0x00000030 } })
      (fun t => response t == (0, 0, 0)) = true := by decide

/-- RN11: the halt request of the eighth step's instant comes after it, as an instant of a step of the machine. -/
theorem test_step_halt_after_last :
    holds (step { startTrigger (accept (loaded plain)) with
        inFlight := .run 0
        ctl := { (startTrigger (loaded plain)).ctl with cyc := 7 }
        inputs := [{ clk false with haltReq := true }] })
      (fun t => response t == (0, 0, 0) && t.ctl.runDone && !t.ctl.runHalted) = true := by decide

/-! ### Witnesses: the hypotheses of each statement are met together -/

theorem witness_DecodeOfEncode : (Instr.writeRegister 0x3F 0xFF).wellFormed = true := by decide

theorem witness_EncodeOfDecode : decode 0x53FFF#20 = .ok (.encode 0x3F 0xFF) ∧
    (0x53FFF#20).extractLsb' 16 4 ∈ [3#4, 5#4, 6#4] ∧ decode 0x7FFFF#20 = .ok .run ∧
    (0x7FFFF#20).extractLsb' 16 4 ∉ [3#4, 5#4, 6#4] := by decide

theorem witness_ClassN :
    Instr.run ∈ [Instr.bringUp, .shutDown, .configure, .run, .halt, .validate] ∧
      (0x7ABCD#20).extractLsb' 16 4 = (encode .run).extractLsb' 16 4 := by decide

theorem witness_Operands : (0x3FF00#20).extractLsb' 16 4 = 3#4 ∧ (0x500FF#20).extractLsb' 16 4 = 5#4 ∧
    (0x68001#20).extractLsb' 16 4 = 6#4 := by decide

theorem witness_ReservedOp :
    (0x00000#20).extractLsb' 16 4 = 0#4 ∧ 10#4 ≤ (0xA0000#20).extractLsb' 16 4 ∧
      10#4 ≤ (0xFFFFF#20).extractLsb' 16 4 ∧ (given [word 0xA0000] (base plain)).port.busy = false ∧
      (given [word 0xA0000] (base plain)).ctl.running = false ∧
      (given [word 0xA0000] (base plain)).inputs = word 0xA0000 :: [] ∧ (word 0xA0000).rstN = true ∧
      (word 0xA0000).haltReq = false ∧ (word 0xA0000).cmd = some 0xA0000 := by decide

theorem witness_ExpansionOrder : (0x8001#16).getLsbD 0 = true ∧ (0x8001#16).getLsbD 15 = true ∧
    (0x8001#16).getLsbD 3 = (0x0000#16).getLsbD 3 ∧ (0x7FFF#16) < (0x8000#16) := by decide

theorem witness_ExpansionShift : (0x7FFF#16) < (0x8000#16) := by decide

theorem witness_CommandByte : (0x3F#8) ≤ (0x3F#8) ∧ (0x7F#8) ≤ (0x7F#8) := by decide

theorem witness_AddressAdmitted : (0x3F#8) ≤ (0x3F#8) ∧ (ready plain).cfg = (base plain).cfg ∧
    (ready plain).cfg.stpPatternWrite = 0x00000020#32 := by decide

theorem witness_AddressRefused : (0x40#8) ≤ (0x40#8) ∧ (0x40#8) ≤ (0xFF#8) := by decide

/-- The reference checks hold in `Ready`. -/
theorem witness_ConfigureCommits : ∀ c ∈ configureChecks (ready plain), c.1 := by
  simp only [configureChecks, List.forall_mem_cons, List.not_mem_nil, false_implies, implies_true, and_true]
  refine ⟨⟨3, rfl⟩, ⟨2, rfl⟩, ⟨2, rfl⟩, rfl, rfl, by decide, by decide, by decide, ?_, ?_, ?_, ?_, ?_, ?_⟩
  · exact (bufferHolds_iff _).1 (by decide)
  · exact (bufferHolds_iff _).1 (by decide)
  · exact (bufferHolds_iff _).1 (by decide)
  · exact (allAvailable_iff _ _).1 (by decide)
  · exact (allAvailable_iff _ _).1 (by decide)
  · exact (allAvailable_iff _ _).1 (by decide)

/-- CF2: the first check fails. -/
def badLength : State :=
  { ready plain with cfg := { plain with desc := { plain.desc with data := { plain.desc.data with bufferLen := 6 } } } }

theorem witness_ConfigureReports_first : ∃ held failed info later,
    configureChecks badLength = held ++ (failed, info) :: later ∧ (∀ c ∈ held, c.1) ∧ ¬ failed ∧
      info = 0x01 := by
  refine ⟨[], _, _, _, rfl, by simp, ?_, rfl⟩
  rw [← isPow2_iff]
  decide

/-- CF12: the last check fails, and all before it hold. -/
def noNxt : State := { ready plain with env := { quietInstant with unavailable := [.nxt] } }

theorem witness_ConfigureReports_last : ∃ held failed info later,
    configureChecks noNxt = held ++ (failed, info) :: later ∧ (∀ c ∈ held, c.1) ∧ ¬ failed ∧ info = 0x15 := by
  refine ⟨(configureChecks noNxt).take 13, _, _, [], rfl, ?_, ?_, rfl⟩
  · simp only [configureChecks, List.take_succ_cons, List.take_zero, List.forall_mem_cons, List.not_mem_nil,
      false_implies, implies_true, and_true]
    refine ⟨⟨3, rfl⟩, ⟨2, rfl⟩, ⟨2, rfl⟩, rfl, rfl, by decide, by decide, by decide, ?_, ?_, ?_, ?_, ?_⟩
    · exact (bufferHolds_iff _).1 (by decide)
    · exact (bufferHolds_iff _).1 (by decide)
    · exact (bufferHolds_iff _).1 (by decide)
    · exact (allAvailable_iff _ _).1 (by decide)
    · exact (allAvailable_iff _ _).1 (by decide)
  · intro h
    exact (h .nxt (by decide)).1 (by decide)

theorem reference_plain (b : Bool) (t : Option Nat) : ReferencePlatform (params b t) := ⟨rfl, Nat.le_add_left 1 7, Nat.le_refl 8⟩

theorem programmed_loaded (p : Params) (es : List Instant) : ChannelsProgrammed (given es (loaded p)) :=
  ⟨rfl, rfl, rfl⟩

theorem bindable_ready : AllPinsBindable (ready plain) := by
  intro p hp
  exact (allAvailable_iff (ready plain) (Pin.dataPins ++ [.stp, .nxt])).1 (by decide) p hp

/-- RN1. -/
theorem witness_RunCompletes : (given good (loaded plain)).ctl.configured = true ∧
    ReferencePlatform (given good (loaded plain)).cfg ∧ ChannelsProgrammed (given good (loaded plain)) ∧
    (given good (loaded plain)).inputs = good.take 7 ++ clk false :: [] ∧
    (∀ x ∈ good.take 7, quiet x = true) ∧ (clk false).rstN = true ∧ (clk false).phyClk = true ∧
    clockCycles (good.take 7) + 1 = (given good (loaded plain)).cfg.cycleLimit ∧
    noTimeout (given good (loaded plain)).cfg 0 (good.take 7) :=
  ⟨rfl, reference_plain _ _, programmed_loaded _ _, by decide, by decide, rfl, rfl, by decide,
    (by intro t h; cases h)⟩

/-- The last stall before completion: seven cycles. -/
theorem witness_RunWithoutClock : (given (good.take 7) (loaded plain)).ctl.configured = true ∧
    ReferencePlatform (given (good.take 7) (loaded plain)).cfg ∧
    ChannelsProgrammed (given (good.take 7) (loaded plain)) ∧ (∀ x ∈ good.take 7, quiet x = true) ∧
    clockCycles (good.take 7) < (given (good.take 7) (loaded plain)).cfg.cycleLimit ∧
    (given (good.take 7) (loaded plain)).cfg.runTimeout = none :=
  ⟨rfl, reference_plain _ _, programmed_loaded _ _, by decide, by decide, rfl⟩

/-- The last halt before completion: in the instant of the seventh step. -/
theorem witness_HaltRequest :
    (given (good.take 6 ++ [{ clk false with haltReq := true }]) (loaded plain)).ctl.configured = true ∧
    ReferencePlatform plain ∧
    ChannelsProgrammed (given (good.take 6 ++ [{ clk false with haltReq := true }]) (loaded plain)) ∧
    (∀ x ∈ good.take 6, quiet x = true) ∧ ({ clk false with haltReq := true } : Instant).rstN = true ∧
    clockCycles (good.take 6 ++ [{ clk false with haltReq := true }]) < plain.cycleLimit ∧
    noTimeout plain 0 (good.take 6) :=
  ⟨rfl, reference_plain _ _, programmed_loaded _ _, by decide, rfl, by decide, (by intro t h; cases h)⟩

/-- The timeout expires at the second of two instants, or before a later one. -/
theorem witness_RunTimeout :
    (given [clk false, look 4 false] (loaded (params false (some 4)))).ctl.configured = true ∧
    ReferencePlatform (params false (some 4)) ∧
    ChannelsProgrammed (given [clk false, look 4 false] (loaded (params false (some 4)))) ∧
    (∀ x ∈ [clk false, look 4 false], quiet x = true) ∧
    clockCycles [clk false, look 4 false] < (params false (some 4)).cycleLimit ∧
    noTimeout (params false (some 4)) 0 [clk false] ∧ (look 4 false).now = 0 + 4 ∧ 0 + 4 < (look 5 false).now := by
  refine ⟨rfl, reference_plain _ _, programmed_loaded _ _, by decide, by decide, ?_, by decide, by decide⟩
  intro t h
  cases h
  exact ⟨by decide, by decide⟩

/-- A run with `RUN_TIMEOUT` whose last instant is at its end. -/
theorem witness_byTimeout : noTimeout (params false (some 4)) 0 (good.take 7) ∧
    byTimeout (params false (some 4)) 0 { clk false with now := 4 } := by
  refine ⟨?_, ?_⟩ <;> intro t h <;> cases h
  · exact ⟨by decide, by decide⟩
  · decide

theorem witness_UnconfiguredRun : (ready plain).ctl.configured = false := rfl

/-- Descriptors with a longer data buffer pass `CONFIGURE` but are not the reference table. -/
def longBuffer : State :=
  { configured plain with
    cfg := { plain with desc := { plain.desc with data := { plain.desc.data with bufferLen := 16 } } } }

theorem witness_RunOffTheTable : longBuffer.cfg.desc ≠ longBuffer.cfg.reference ∧
    longBuffer.ctl.configured = true ∧ (0x3F#8) ≤ (0x3F#8) ∧ ∀ c ∈ configureChecks longBuffer, c.1 := by
  refine ⟨by decide, by decide, by decide, ?_⟩
  simp only [configureChecks, List.forall_mem_cons, List.not_mem_nil, false_implies, implies_true, and_true]
  refine ⟨⟨4, rfl⟩, ⟨2, rfl⟩, ⟨2, rfl⟩, rfl, rfl, by decide, by decide, by decide, ?_, ?_, ?_, ?_, ?_, ?_⟩
  · exact (bufferHolds_iff _).1 (by decide)
  · exact (bufferHolds_iff _).1 (by decide)
  · exact (bufferHolds_iff _).1 (by decide)
  · exact (allAvailable_iff _ _).1 (by decide)
  · exact (allAvailable_iff _ _).1 (by decide)
  · exact (allAvailable_iff _ _).1 (by decide)

theorem witness_EngineStep : plain.cycleLimit ≤ 8 ∧
    ({ loaded plain with ctl := { (loaded plain).ctl with cyc := 7 } } : State).ctl.cyc.toNat + 1 =
      plain.cycleLimit ∧
    ({ loaded plain with ctl := { (loaded plain).ctl with cyc := 6 } } : State).ctl.cyc.toNat + 1 <
      plain.cycleLimit := by decide

theorem witness_ARunWritesOnlyTheCapture : (startTrigger (accept (loaded plain))).ctl.running = true ∧
    (clk true).rstN = true ∧
    ∃ t, tick (clk true) (waitFor (.run 0) (startTrigger (accept (loaded plain)))) = .next t :=
  ⟨rfl, rfl, _, eq_nextOf (base plain) (by decide)⟩

theorem witness_HaltAllIsIdempotent : (configured plain).ctl.running = false ∧
    (configured plain).pins.dataOe0 = false ∧ (configured plain).pins.dataOe1 = false := by decide

/-- The first poll falls on an instant at time 3 (the hold ends at 1, the settle delay at 3) and finds DIR asserted;
the next finds it de-asserted `POLL_EPS` later, or asserted at the deadline. -/
theorem witness_BringUpPolls :
    firstLook (0 + plain.tResetHold + plain.tSettle) quietInstant [look 2 true, look 3 true, look 5 false] =
      some (look 3 true, [look 5 false]) ∧
    look 3 true :: [look 5 false] = [look 3 true] ++ look 5 false :: [] ∧
    (∀ y ∈ [look 2 true, look 3 true, look 5 false, look 6 true], y.rstN = true) ∧
    (∀ y ∈ [look 3 true], dirAt plain y = true ∧
      y.now < 0 + plain.tResetHold + plain.tSettle + plain.tClockDeadline) ∧
    (look 5 false).now ≤ (look 3 true).now + plain.pollEps ∧ dirAt plain (look 5 false) = false ∧
    (look 6 true).now ≤ 0 + plain.tResetHold + plain.tSettle + plain.tClockDeadline ∧
    dirAt plain (look 6 true) = true ∧
    0 + plain.tResetHold + plain.tSettle + plain.tClockDeadline ≤ (look 6 true).now := by decide

/-- No instant falls on the end of the hold or of the settle delay: the first poll sees the levels before. -/
theorem witness_BringUpGap :
    firstLook (0 + plain.tResetHold + plain.tSettle) quietInstant [look 99 true] =
      some (held 3 quietInstant, [look 99 true]) ∧
    held 3 quietInstant :: [look 99 true] = [] ++ held 3 quietInstant :: [look 99 true] ∧
    dirAt plain (held 3 quietInstant) = false := by decide

/-- With one gap over all three deadlines. -/
theorem witness_BringUpEndsWithinItsBound :
    (∀ x ∈ (given [look 99 false] (base plain)).inputs, x.rstN = true) ∧
    look 99 false ∈ (base plain).env :: (given [look 99 false] (base plain)).inputs ∧
    (base plain).env.now + plain.tResetHold + plain.tSettle + plain.tClockDeadline ≤ (look 99 false).now := by
  decide

/-- The state that `BRING_UP` is in after the given looks, with `e` the next instant. -/
def waiting (looks : List Instant) (e : Instant) : State :=
  given [e] (nextOf (exec .bringUp (given looks (base plain))) (base plain))

/-- In the hold until 1 and in the settle delay until 3: before, at and past the deadline. -/
theorem witness_TheDelaysLastExactly :
    (∀ s ∈ [waiting [] (look 1 true), waiting [look 2 true] (look 3 true)],
      s.port.busy = true ∧ s.ctl.running = false ∧ s.pins.dataOe0 = false ∧ s.pins.dataOe1 = false ∧
        0 < s.cfg.tSettle ∧ 0 < s.cfg.tClockDeadline) ∧
    (waiting [] (look 1 true)).inFlight = .bringUpHold ∧ (waiting [] (look 1 true)).session.buDeadline = 1 ∧
    (waiting [look 2 true] (look 3 true)).inFlight = .bringUpSettle ∧
    (waiting [look 2 true] (look 3 true)).session.buDeadline = 3 ∧
    (look 0 true).now < 1 ∧ (look 1 true).now = 1 ∧ 1 < (look 2 true).now ∧ (look 3 true).now = 3 ∧
    3 < (look 4 true).now ∧ (look 0 true).rstN = true := by decide

theorem witness_GapsAreAsIfAnInstantFell : lookDue (look 2 true) (waiting [] (look 2 true)) = true ∧
    lookDue (look 4 true) (waiting [look 2 true] (look 4 true)) = true ∧
    lookDue (look 8 true) (waiting [look 3 true] (look 8 true)) = true ∧
    lookDue (look 5 true) (waitFor (.run 0)
      (startTrigger (accept (given [look 5 true] (loaded (params false (some 4))))))) = true := by decide

/-- Polling since time 3, with the deadline at 6 and `POLL_EPS` 2. -/
def polling (e : Instant) : State := waiting [look 1 true, look 3 true] e

/-- The state's premises, and each clause at its boundary: within `POLL_EPS`, at the deadline, `POLL_EPS` past the
deadline, and in between. -/
theorem witness_PollsAreAtMostPollEpsApart :
    (∀ e ∈ [look 5 false, look 6 true, look 8 false, look 7 false],
      (polling e).port.busy = true ∧ (polling e).inFlight = .bringUpPoll ∧ (polling e).ctl.running = false ∧
        dirIn (polling e) = true ∧ (polling e).inputs = e :: [] ∧ e.rstN = true ∧
        (polling e).env.now = 3 ∧ (polling e).session.buDeadline = 6 ∧ (polling e).cfg.pollEps = 2) ∧
    (look 5 false).now ≤ 3 + 2 ∧ dirAt plain (look 5 false) = false ∧
    (look 6 true).now ≤ 6 ∧ 6 ≤ (look 6 true).now ∧ dirAt plain (look 6 true) = true ∧
    3 + 2 < (look 8 false).now ∧ 6 < (look 8 false).now ∧ 6 + 2 ≤ (look 8 false).now ∧
    3 + 2 < (look 7 false).now ∧ 6 < (look 7 false).now ∧ (look 7 false).now < 6 + 2 := by decide

theorem witness_PollTestsThePin :
    (waitFor .bringUpPoll (base plain)).inFlight = .bringUpPoll ∧
    (waitFor .bringUpPoll (base plain)).ctl.running = false ∧ (look 99 false).rstN = true ∧
    dirAt plain (look 99 false) = false := by decide

theorem witness_WriteRegister : (0x3F#8) ≤ (0x3F#8) ∧ ReferencePlatform (given good (ready plain)).cfg ∧
    (given good (ready plain)).cfg.cycleLimit = 8 ∧ AllPinsBindable (given good (ready plain)) ∧
    (given good (ready plain)).inputs = good.take 7 ++ clk false :: [] ∧
    (∀ x ∈ good.take 7, quiet x = true) ∧ clockCycles (good.take 7) + 1 = 8 ∧
    noTimeout plain 0 (good.take 7) ∧
    nxtSamples plain good = [false, false, false, false, true, true, false, false] ∧
    nxtSamples plain (good.take 7 ++ [clk true]) ≠
      [false, false, false, false, true, true, false, false] :=
  ⟨by decide, reference_plain _ _, rfl, bindable_ready, by decide, by decide, by decide,
    (by intro t h; cases h), by decide, by decide⟩

theorem witness_SessionPhase : ReferencePlatform (base plain).cfg ∧ (base plain).owner.stp = .session ∧
    (base plain).ctl.configured = false ∧ ∀ p ∈ Pin.dataPins, PinBindable (base plain) p :=
  ⟨reference_plain _ _, rfl, rfl, (allAvailable_iff _ _).1 (by decide)⟩

/-- The states that the five steps of a good write reach. -/
def step1 (p : Params) (es : List Instant) : State := nextOf (exec .configure (given es (ready p))) (base p)
def step2 (p : Params) (es : List Instant) : State := nextOf (exec (.encode 0x3A 0x02) (step1 p es)) (base p)
def step3 (p : Params) (es : List Instant) : State :=
  nextOf (exec (.expand (step2 p es).tx.driveMask) (step2 p es)) (base p)
def step4 (p : Params) (es : List Instant) : State := nextOf (exec .run (step3 p es)) (base p)

theorem witness_FiveSteps : exec .configure (given good (ready plain)) = .next (step1 plain good) ∧
    (step1 plain good).port.rspCode = 0 ∧ exec (.encode 0x3A 0x02) (step1 plain good) = .next (step2 plain good) ∧
    exec (.expand (step2 plain good).tx.driveMask) (step2 plain good) = .next (step3 plain good) ∧
    exec .run (step3 plain good) = .next (step4 plain good) ∧ (step4 plain good).port.busy = false ∧
    (step4 plain good).port.rspValid = true ∧ (step4 plain good).port.rspCode = 0 ∧
    ∃ t, exec .validate (step4 plain good) = .next t :=
  ⟨eq_nextOf _ (by decide), by decide, eq_nextOf _ (by decide), eq_nextOf _ (by decide), eq_nextOf _ (by decide),
    by decide, by decide, by decide, _, eq_nextOf (base plain) (by decide)⟩

/-- The inputs of a run that is timed out. -/
def lateInputs : List Instant := [clk false, look 4 false]

theorem witness_FailedRun :
    exec .configure (given lateInputs (ready (params false (some 4)))) =
      .next (step1 (params false (some 4)) lateInputs) ∧
    (step1 (params false (some 4)) lateInputs).port.rspCode = 0 ∧
    exec (.encode 0x3A 0x02) (step1 (params false (some 4)) lateInputs) =
      .next (step2 (params false (some 4)) lateInputs) ∧
    exec (.expand (step2 (params false (some 4)) lateInputs).tx.driveMask)
      (step2 (params false (some 4)) lateInputs) = .next (step3 (params false (some 4)) lateInputs) ∧
    exec .run (step3 (params false (some 4)) lateInputs) = .next (step4 (params false (some 4)) lateInputs) ∧
    (step4 (params false (some 4)) lateInputs).port.busy = false ∧
    (step4 (params false (some 4)) lateInputs).port.rspValid = true ∧
    (step4 (params false (some 4)) lateInputs).port.rspCode = 5 :=
  ⟨eq_nextOf _ (by decide), by decide, eq_nextOf _ (by decide), eq_nextOf _ (by decide), eq_nextOf _ (by decide), by decide, by decide, by decide⟩

theorem witness_StalledWrite : (0x3F#8) ≤ (0x3F#8) ∧ ReferencePlatform plain ∧ AllPinsBindable (ready plain) ∧
    (∀ x ∈ good.take 2, quiet x = true) ∧ clockCycles (good.take 2) < plain.cycleLimit ∧
    plain.runTimeout = none :=
  ⟨by decide, reference_plain _ _, bindable_ready, by decide, by decide, rfl⟩

theorem witness_OnlyBringUp : Instr.halt ≠ .bringUp ∧ (∀ x ∈ [word 0x80000], x.rstN = true) ∧
    (given [word 0x80000] (ready plain)).port.busy = false ∧
    (given [word 0x80000] (ready plain)).inFlight = .idle ∧ decode 0x80000 ≠ .ok .bringUp ∧
    (∃ t, exec .halt (given [word 0x80000] (ready plain)) = .next t) ∧
    ∃ t, step (given [word 0x80000] (ready plain)) = .next t :=
  ⟨by decide, by decide, rfl, rfl, by decide, ⟨_, eq_nextOf (base plain) (by decide)⟩,
    ⟨_, eq_nextOf (base plain) (by decide)⟩⟩

theorem witness_EachBuffer : (∀ x ∈ good, x.rstN = true) ∧
    ∃ t, exec .run (given good (loaded plain)) = .next t :=
  ⟨by decide, _, eq_nextOf (base plain) (by decide)⟩

theorem witness_StepNext : ∃ t, step (given [word 0x6007E] (base plain)) = .next t :=
  ⟨_, eq_nextOf (base plain) (by decide)⟩

/-- A busy block that takes the instant, one whose overdue poll comes first, and one that faults. -/
theorem witness_BusyPort :
    (∃ t, tick (word 0x80000) (waitFor .bringUpPoll (accept (base plain))) = .next t) ∧
    (polling { look 5 true with cmd := some 0x80000 }).port.busy = true ∧
    (catchUp { look 5 true with cmd := some 0x80000 }
      (polling { look 5 true with cmd := some 0x80000 })).port.busy = true ∧
    (∃ t, step (polling { look 5 true with cmd := some 0x80000 }) = .next t) ∧
    (catchUp { look 8 true with cmd := some 0x80000 }
      (polling { look 8 true with cmd := some 0x80000 })).port.busy = false ∧
    (∃ t, step (polling { look 8 true with cmd := some 0x80000 }) = .next t) ∧
    step (given [clk false] { startTrigger (accept (loaded plain)) with
        inFlight := .run 0
        ctl := { (startTrigger (loaded plain)).ctl with cyc := 8 } }) = .fault .cycleIndexOutsideBuffers :=
  ⟨⟨_, eq_nextOf (base plain) (by decide)⟩, by decide, by decide, ⟨_, eq_nextOf (base plain) (by decide)⟩,
    by decide, ⟨_, eq_nextOf (base plain) (by decide)⟩, rfl⟩

theorem witness_StepRuns : (given [word 0x5163A] (base plain)).port.busy = false ∧
    (given [word 0x5163A] (base plain)).ctl.running = false ∧
    (given [word 0x5163A] (base plain)).inputs = word 0x5163A :: [] ∧ (word 0x5163A).rstN = true ∧
    (word 0x5163A).cmd = some 0x5163A ∧ decode 0x5163A = .ok (.encode 0x16 0x3A) ∧
    (Instr.encode 0x16 0x3A).wellFormed = true := by decide

/-- A state with the invariant and a next state. -/
theorem witness_Invariant : BlockInv (given [word 0x6007E] (base plain)) := by
  constructor <;> simp [given, base, State.reset, OwnerMap.initial]

/-- An instant of reset, to a block that is ready, to one that is busy, and to one whose overdue poll comes first. -/
theorem witness_HardwareReset :
    (given [{ quietInstant with rstN := false }] (loaded plain)).inputs =
      { quietInstant with rstN := false } :: [] ∧ ({ quietInstant with rstN := false } : Instant).rstN = false ∧
    (given [{ quietInstant with rstN := false }] (loaded plain)).port.busy = false ∧
    (polling { look 5 true with rstN := false }).port.busy = true ∧
    (catchUp { look 5 true with rstN := false } (polling { look 5 true with rstN := false })).port.busy = true ∧
    (polling { look 8 true with rstN := false }).port.busy = true ∧
    (catchUp { look 8 true with rstN := false } (polling { look 8 true with rstN := false })).port.busy =
      false := by
  decide

/-- The words of the opcode table, run as the first operation after reset. -/
theorem test_withFetchWord :
    holds (step (State.reset.withFetchWord 24 0x06007E))
      (fun t => t.tx.driveMask == 0x007E#16 && t.buf.dirBuf == 0x00003FFC#32) = true := by decide

end Sys2Proof.Tests
end

section
/-! SUPPORT. The polls of `AwaitingClockStable` (44_bringup_fsm.md R188 to R190): what the poll of an instant and the
overdue poll between two instants give, as steps of the machine. -/

namespace Sys2Proof.Machine

/-- `dir_in` is logical DIR at the present instant (10_state.md R42). -/
theorem dirIn_eq_dirAt (s : State) : dirIn s = dirAt s.cfg s.env := rfl

/-! ### One poll -/

/-- A poll that finds DIR de-asserted gives `Ready`, whatever the deadline (R189, R230). -/
theorem pollDir_of_released {s : State} (h : dirIn s = false) : pollDir s = enterReady s := by
  simp [pollDir, h]

/-- A poll at or past the deadline that finds DIR asserted times out (R190). -/
theorem pollDir_of_expired {s : State} (h : dirIn s = true) (hd : s.session.buDeadline ≤ now s) :
    pollDir s = enterFailed s := by
  simp [pollDir, h, hd]

/-- An overdue poll sees the levels of the last one, so it times out where that one found DIR asserted. -/
theorem overduePoll_of_asserted {s : State} (h : dirIn s = true) :
    overduePoll s = enterFailed { s with env := held (overdueAt s) s.env } := by
  simp [overduePoll, h]

/-- With the channels stopped an instant of the polling is a poll, after the instant's halt request if there is one. -/
theorem tick_of_poll {e : Instant} {s : State} (hf : s.inFlight = .bringUpPoll) (hr : s.ctl.running = false)
    (he : e.rstN = true) : tick e s = .next (pollDir (haltEvent { s with env := e })) := by
  have hev : events { s with env := e } = .next (haltEvent { s with env := e }) := events_of_not_running hr
  have hfl : (haltEvent { s with env := e }).inFlight = .bringUpPoll := by simp [hf]
  rw [tick, if_pos he, hev, andThen_next, advance_of_poll hfl]

/-! ### The poll that ends the polling -/

section PollStep

variable {s : State} {e : Instant} {rest : List Instant}

/-- With no poll overdue, a step of the polling is the poll of the next instant, where that poll ends it. -/
theorem step_of_poll (hb : s.port.busy = true) (hf : s.inFlight = .bringUpPoll) (hr : s.ctl.running = false)
    (hin : s.inputs = e :: rest) (ho : pollOverdue e s = false) (he : e.rstN = true)
    (hend : (pollDir (haltEvent { s with env := e })).port.busy = false) :
    step s = .next { pollDir (haltEvent { s with env := e }) with inputs := rest } := by
  have hlook : lookDue e s = false := (lookDue_of_poll hb hf).trans ho
  rw [step_busy hb hin, drain_busy hb hlook, tick_of_poll hf hr he, andThen_next, drain_idle hend]

/-- The poll of the next instant finds DIR de-asserted: `Ready`. -/
theorem step_of_poll_released (hb : s.port.busy = true) (hf : s.inFlight = .bringUpPoll)
    (hr : s.ctl.running = false) (hin : s.inputs = e :: rest) (ho : pollOverdue e s = false) (he : e.rstN = true)
    (hdir : dirAt s.cfg e = false) :
    step s = .next { enterReady (haltEvent { s with env := e }) with inputs := rest } := by
  have hpoll : pollDir (haltEvent { s with env := e }) = enterReady (haltEvent { s with env := e }) :=
    pollDir_of_released (by simpa [dirIn_eq_dirAt] using hdir)
  rw [step_of_poll hb hf hr hin ho he (by rw [hpoll]; rfl), hpoll]

/-- The poll of the next instant finds DIR asserted at or past the deadline: `Failed`. -/
theorem step_of_poll_expired (hb : s.port.busy = true) (hf : s.inFlight = .bringUpPoll)
    (hr : s.ctl.running = false) (hin : s.inputs = e :: rest) (ho : pollOverdue e s = false) (he : e.rstN = true)
    (hdir : dirAt s.cfg e = true) (hd : s.session.buDeadline ≤ e.now) :
    step s = .next { enterFailed (haltEvent { s with env := e }) with inputs := rest } := by
  have hpoll : pollDir (haltEvent { s with env := e }) = enterFailed (haltEvent { s with env := e }) :=
    pollDir_of_expired (by simpa [dirIn_eq_dirAt] using hdir) (by simpa [now] using hd)
  rw [step_of_poll hb hf hr hin ho he (by rw [hpoll]; rfl), hpoll]

/-- Where a poll is overdue and the last one found DIR asserted, the block times out before the next instant, which is
still to come (log entry 15). -/
theorem step_of_overdue (hb : s.port.busy = true) (hin : s.inputs = e :: rest) (ho : pollOverdue e s = true)
    (hdir : dirIn s = true) :
    step s = .next { enterFailed { s with env := held (overdueAt s) s.env } with inputs := e :: rest } := by
  have hf : s.inFlight = .bringUpPoll := bringUpPoll_of_overdue ho
  have hlook : lookDue e s = true := (lookDue_of_poll hb hf).trans ho
  rw [step_busy hb hin, drain_look hlook, ownLook_of_poll hf, overduePoll_of_asserted hdir, drain_idle rfl]

end PollStep

/-- In a gap longer than `POLL_EPS` that reaches `POLL_EPS` past the deadline a poll is overdue, whatever the free
value in its time. -/
theorem pollOverdue_of_gap {e : Instant} {s : State} (hf : s.inFlight = .bringUpPoll)
    (hgap : s.env.now + s.cfg.pollEps < e.now) (hd : s.session.buDeadline < e.now)
    (hlate : s.session.buDeadline + s.cfg.pollEps ≤ e.now) : pollOverdue e s = true := by
  simp [pollOverdue, now, hf, hgap, hd, hlate]

/-! ### The statement -/

/-- Settles O36: whether a poll is overdue before the next instant decides which of the two polls ends the polling. -/
theorem pollsAreAtMostPollEpsApart : Obligations.PollsAreAtMostPollEpsApart := by
  unfold Obligations.PollsAreAtMostPollEpsApart
  intro s e rest hb hf hr hdir hin
  refine ⟨fun hnear he => ?near, fun hgap hd hlate => ?late, fun hgap hd _ he => ?between⟩
  case near =>
    have ho : pollOverdue e s = false := pollOverdue_of_near hnear
    exact ⟨fun hde => ⟨_, step_of_poll_released hb hf hr hin ho he hde, rfl, by simp, rfl⟩,
      fun hde hd => ⟨_, step_of_poll_expired hb hf hr hin ho he hde hd, rfl, by simp, rfl⟩⟩
  case late =>
    have hstep := step_of_overdue hb hin (pollOverdue_of_gap hf hgap hd hlate) hdir
    obtain ⟨hfrom, hto⟩ := overdueAt_bounds s
    exact ⟨_, hstep, ⟨rfl, rfl, rfl, rfl, rfl, rfl⟩, rfl, rfl, rfl, hfrom, hto,
      rfl, rfl, rfl, rfl, rfl, rfl, rfl⟩
  case between =>
    cases ho : pollOverdue e s with
    | true =>
      obtain ⟨_, _, hbefore⟩ := pollOverdue_iff.1 ho
      obtain ⟨hfrom, _⟩ := overdueAt_bounds s
      exact ⟨_, step_of_overdue hb hin ho hdir, rfl, .inr ⟨hfrom, hbefore, rfl, rfl⟩⟩
    | false =>
      cases hde : dirAt s.cfg e with
      | false => exact ⟨_, step_of_poll_released hb hf hr hin ho he hde, rfl, .inl ⟨by simp, rfl, rfl⟩⟩
      | true =>
        have hstep := step_of_poll_expired hb hf hr hin ho he hde (Nat.le_of_lt hd)
        exact ⟨_, hstep, rfl, .inl ⟨by simp, rfl, rfl⟩⟩

end Sys2Proof.Machine
end

section
/-! SUPPORT. The decoder read by the opcode map (30_encoding.md R93, R95 to R97): a word with the number of an operation
decodes to it, with the operands of the word, and the numbers of no operation are the reserved ones. -/

namespace Sys2Proof

open Laws.OpcodeField (opOf Statement)

/-- The canonical word of every operation carries its number of the opcode map, which is no reserved one. -/
theorem opcodeField_statement : ∀ i : Instr, Statement i
  | .bringUp => Laws.OpcodeField.bringUp
  | .shutDown => Laws.OpcodeField.shutDown
  | .writeRegister a v => Laws.OpcodeField.writeRegister a v
  | .configure => Laws.OpcodeField.configure
  | .encode a v => Laws.OpcodeField.encode a v
  | .expand m => Laws.OpcodeField.expand m
  | .run => Laws.OpcodeField.run
  | .halt => Laws.OpcodeField.halt
  | .validate => Laws.OpcodeField.validate

/-- The operation with its operands taken from the fields of a word; class N has none (R93, R97). -/
def Instr.withFieldsOf (w : Cmd20) : Instr → Instr
  | .writeRegister _ _ => .writeRegister (aField w) (dField w)
  | .encode _ _ => .encode (aField w) (dField w)
  | .expand _ => .expand (maskField w)
  | i => i

/-- A word with the number of an operation decodes to it, with the operands of the word. -/
theorem decode_of_opField {w : Cmd20} (i : Instr) (h : opField w = opOf i) : decode w = .ok (i.withFieldsOf w) := by
  cases i <;> simp [decode, h, opOf, Instr.withFieldsOf]

/-- A word that decodes to an operation has its number. -/
theorem opField_of_decode {w : Cmd20} {i : Instr} (h : decode w = .ok i) : opField w = opOf i := by
  rcases decode_cases h with ⟨hop, rfl⟩ | ⟨hop, rfl⟩ | ⟨hop, rfl⟩ | ⟨hop, rfl⟩ | ⟨hop, rfl⟩ | ⟨hop, rfl⟩ |
    ⟨hop, rfl⟩ | ⟨hop, rfl⟩ | ⟨hop, rfl⟩ <;> exact hop

/-- The 16-bit immediate is bits 15:0 of the word. -/
theorem maskField_eq_extractLsb' (w : Cmd20) : maskField w = w.extractLsb' 0 16 := by
  apply BitVec.eq_of_getLsbD_eq
  intro i _
  simp [maskField_getLsbD, BitVec.getLsbD_extractLsb']

/-! ### The reserved numbers -/

/-- Every number that is not reserved is that of an operation (R95). -/
theorem exists_opOf (op : BitVec 4) (h0 : op ≠ 0) (h10 : op < 10) : ∃ i, opOf i = op := by
  have hmem : op ∈ [Instr.bringUp, .shutDown, .writeRegister 0 0, .configure, .encode 0 0, .expand 0, .run, .halt,
      .validate].map opOf := by
    revert op; decide
  obtain ⟨i, _, hi⟩ := List.mem_map.1 hmem
  exact ⟨i, hi⟩

/-- The words that decode to no operation are those whose `op` is 0 or from 10 on (R96). -/
theorem reserved_iff_decode_ne_ok (w : Cmd20) :
    (opField w = 0 ∨ 10 ≤ opField w) ↔ ∀ i, decode w ≠ .ok i := by
  constructor
  · intro hres i hdec
    obtain ⟨_, hne, hlt⟩ := opcodeField_statement i
    rw [opField_of_decode hdec] at hres
    exact hres.elim hne (BitVec.not_le.2 hlt)
  · intro hnone
    by_contra hres
    rw [not_or, BitVec.not_le] at hres
    obtain ⟨i, hi⟩ := exists_opOf (opField w) hres.1 hres.2
    exact hnone _ (decode_of_opField i hi.symm)

/-- The decoder's error is the `op` of the word. -/
theorem decode_error_eq {w : Cmd20} {e : DecodeError} (h : decode w = .error e) : e = .reservedOp (opField w) := by
  unfold decode at h
  split at h <;> cases h
  rfl

theorem decode_of_reserved {w : Cmd20} (h : opField w = 0 ∨ 10 ≤ opField w) :
    decode w = .error (.reservedOp (opField w)) := by
  cases hdec : decode w with
  | ok i => exact absurd hdec ((reserved_iff_decode_ne_ok w).1 h i)
  | error e => rw [decode_error_eq hdec]

/-! ### The statements about the decoder -/

/-- Settles O3: the number of a class N operation decodes to it, and the operation takes no field of the word. -/
theorem classNIgnoresItsOperandFields : Obligations.ClassNIgnoresItsOperandFields := by
  unfold Obligations.ClassNIgnoresItsOperandFields
  intro i hi
  have hfree : (∀ w, i.withFieldsOf w = i) ∧ (encode i).extractLsb' 0 16 = 0#16 := by
    simp only [List.mem_cons, List.not_mem_nil, or_false] at hi
    rcases hi with rfl | rfl | rfl | rfl | rfl | rfl <;> exact ⟨fun _ => rfl, by decide⟩
  obtain ⟨hop, _, _⟩ := opcodeField_statement i
  refine ⟨fun w hw => ?_, hfree.2⟩
  have hwop : opField w = opOf i := Eq.trans hw hop
  rw [decode_of_opField i hwop, hfree.1 w]

/-- Settles O4: the operands are those of `Instr.withFieldsOf`, and the immediate is `a` above `d`. -/
theorem operandsAreTheFieldsOfTheWord : Obligations.OperandsAreTheFieldsOfTheWord := by
  unfold Obligations.OperandsAreTheFieldsOfTheWord
  intro w
  refine ⟨fun h3 => decode_of_opField (.writeRegister 0 0) h3, fun h5 => decode_of_opField (.encode 0 0) h5,
    fun h6 => ?_⟩
  rw [← maskField_eq_extractLsb']
  exact decode_of_opField (.expand 0) h6

end Sys2Proof
end

section
/-! SUPPORT. A reserved word at a ready port (30_encoding.md R96): the way of a command word through a step, and the
response `illegalWord` writes. -/

namespace Sys2Proof.Machine

theorem haltEvent_of_no_request {s : State} (h : s.env.haltReq = false) : haltEvent s = s := by
  simp [haltEvent, h]

/-- With the channels stopped and no halt request an instant has no events. -/
theorem events_of_quiet {s : State} (hr : s.ctl.running = false) (hh : s.env.haltReq = false) :
    events s = .next s := by
  rw [events_of_not_running hr, haltEvent_of_no_request hh]

/-- A ready block with its channels stopped, at an instant with no reset and no halt request, only looks at the command
port. -/
theorem step_ready_quiet {s : State} {e : Instant} {rest : List Instant} (hb : s.port.busy = false)
    (hr : s.ctl.running = false) (hin : s.inputs = e :: rest) (he : e.rstN = true) (hh : e.haltReq = false) :
    step s = issue { s with env := e, inputs := rest } := by
  have hev : events { s with env := e, inputs := rest } = .next { s with env := e, inputs := rest } :=
    events_of_quiet hr hh
  rw [step_ready hb hin he, hev, andThen_next]

theorem issue_of_reserved {s : State} {w : Cmd20} (hc : s.env.cmd = some w)
    (hres : opField w = 0 ∨ 10 ≤ opField w) : issue s = .next (illegalWord (opField w) s) := by
  simp [issue, hc, decode_of_reserved hres]

theorem illegalWord_responded (op : BitVec 4) (s : State) :
    Responded 6 7 (op.zeroExtend 8) (illegalWord op s) :=
  ⟨rfl, rfl, rfl, rfl, rfl, rfl⟩

theorem illegalWord_onlyResponseDiffers (op : BitVec 4) (s : State) : OnlyResponseDiffers s (illegalWord op s) :=
  ⟨rfl, rfl, rfl, rfl, rfl, rfl, rfl, rfl, rfl⟩

/-- Settles O6: the step of a ready port is `issue`, which finds no operation in the word and answers it with
`illegalWord`. -/
theorem reservedOpCompletesAsIllegalOperation : Obligations.ReservedOpCompletesAsIllegalOperation := by
  unfold Obligations.ReservedOpCompletesAsIllegalOperation
  refine ⟨reserved_iff_decode_ne_ok, fun s e rest w hb hr hin he hh hc hres => ?_⟩
  have hstep : step s = .next (illegalWord (opField w) { s with env := e, inputs := rest }) := by
    rw [step_ready_quiet hb hr hin he hh, issue_of_reserved hc hres]
  exact ⟨_, hstep, illegalWord_responded _ _, illegalWord_onlyResponseDiffers _ _⟩

end Sys2Proof.Machine
end

section
/-! SUPPORT. The command byte bit by bit and as a number (30_encoding.md R94), and the addresses outside the admitted
domain (R98). -/

namespace Sys2Proof.Machine

/-! ### The command byte -/

/-- The command byte is the address with bit 7 set. -/
theorem commandByteOf_getLsbD (a : Byte) {i : Nat} (hi : i < 8) :
    (commandByteOf a).getLsbD i = (decide (i = 7) || a.getLsbD i) := by
  have hop : ∀ j < 8, writeOpcode.getLsbD j = decide (j = 7) := by decide
  rw [commandByteOf, BitVec.getLsbD_or, hop i hi]

/-- Below `0x80` the opcode bit is free in the address, so or-ing it in is adding it. -/
theorem commandByteOf_toNat {a : Byte} (h : a ≤ 0x7F#8) : (commandByteOf a).toNat = 0x80 + a.toNat := by
  have hlt : a.toNat < 2 ^ 7 := Nat.lt_succ_of_le h
  exact (Nat.two_pow_add_eq_or_of_lt hlt 1).symm

/-- The command byte of an admitted address is `10` above its six bits. -/
theorem commandByteOf_of_admitted {a : Byte} (h : a ≤ 0x3F#8) : commandByteOf a = 0b10#2 ++ a.extractLsb' 0 6 := by
  have hlt : a.toNat < 2 ^ 6 := Nat.lt_succ_of_le h
  apply BitVec.eq_of_toNat_eq
  calc (commandByteOf a).toNat
      = 0x80 + a.toNat := commandByteOf_toNat (Nat.le_trans h (by decide))
    _ = 2 ^ 6 * 2 ||| a.toNat := Nat.two_pow_add_eq_or_of_lt hlt 2
    _ = (0b10#2 ++ a.extractLsb' 0 6).toNat := by
        rw [BitVec.toNat_append, BitVec.extractLsb'_toNat, Nat.shiftRight_zero, Nat.mod_eq_of_lt hlt]; rfl

/-- Where the address has the opcode bit itself, the command byte does not tell it from the address. -/
theorem commandByteOf_eq_self {a : Byte} (h : a.getLsbD 7 = true) : commandByteOf a = a := by
  apply BitVec.eq_of_getLsbD_eq
  intro i hi
  rw [commandByteOf_getLsbD a hi]
  by_cases h7 : i = 7
  · simp [h7, h]
  · simp [h7]

/-- Settles O12: the sum and the concatenation are the same number as the or. -/
theorem commandByteIsTheOrWithTheOpcodeBit : Obligations.CommandByteIsTheOrWithTheOpcodeBit :=
  ⟨fun _ => rfl, fun _ => commandByteOf_of_admitted, fun _ => commandByteOf_toNat, by decide⟩

/-! ### Addresses above the domain -/

theorem addressAdmitted_of_above {a : Byte} (h : 0x40#8 ≤ a) : addressAdmitted a = false := by
  have hlt : addrMax < a := Nat.lt_of_succ_le h
  simpa [addressAdmitted] using hlt

theorem exec_encode_of_not_admitted {a : Byte} (h : addressAdmitted a = false) (v : Byte) (s : State) :
    exec (.encode a v) s = .refused (.addressOutsideDomain a) := by
  simp [exec, execEncode, h]

theorem exec_writeRegister_of_not_admitted {a : Byte} (h : addressAdmitted a = false) (v : Byte) (s : State) :
    exec (.writeRegister a v) s = .refused (.addressOutsideDomain a) := by
  simp [exec, execWriteRegister, h]

/-- An address from `0x40` on has bit 6 or bit 7. -/
theorem bit_six_or_seven_of_above {a : Byte} (h : 0x40#8 ≤ a) : a.getLsbD 6 = true ∨ a.getLsbD 7 = true := by
  have hle : 64 ≤ a.toNat := h
  have hlt : a.toNat < 256 := a.isLt
  simp only [← BitVec.testBit_toNat, Nat.testBit_eq_decide_div_mod_eq, decide_eq_true_eq]
  omega

/-- Settles O14: bit 6 of the address stands in the command byte, and bit 7 is lost in the opcode bit. -/
theorem addressAboveTheDomainIsRefused : Obligations.AddressAboveTheDomainIsRefused := by
  unfold Obligations.AddressAboveTheDomainIsRefused
  intro a v s habove
  have hout : addressAdmitted a = false := addressAdmitted_of_above habove
  refine ⟨exec_encode_of_not_admitted hout v s, exec_writeRegister_of_not_admitted hout v s, rfl, ?_⟩
  rcases bit_six_or_seven_of_above habove with h6 | h7
  · exact .inl (by rw [commandByteOf_getLsbD a (by decide), h6]; rfl)
  · exact .inr ⟨h7, commandByteOf_eq_self h7⟩

end Sys2Proof.Machine
end

section
/-! SUPPORT. The expansion of a drive mask (40_direction_expander.md R112 to R116), read three ways: bit by bit, pair by
pair, and as a number in base 4, one digit 3 or 0 per cycle. -/

namespace Sys2Proof.Machine

/-! ### Bit by bit -/

/-- The bits of `expand16 m` determine it. -/
theorem expand16_eq_of_getLsbD {m : Mask16} {w : Word32} (h : ∀ i < 32, w.getLsbD i = m.getLsbD (i / 2)) :
    expand16 m = w := by
  apply BitVec.eq_of_getLsbD_eq
  intro i hi
  rw [expand16_getLsbD m i hi, h i hi]

theorem expand16_getLsbD_even (m : Mask16) {i : Nat} (hi : i < 16) : (expand16 m).getLsbD (2 * i) = m.getLsbD i := by
  rw [expand16_getLsbD m _ (by omega), Nat.mul_div_cancel_left i (by decide)]

theorem expand16_getLsbD_odd (m : Mask16) {i : Nat} (hi : i < 16) :
    (expand16 m).getLsbD (2 * i + 1) = m.getLsbD i := by
  rw [expand16_getLsbD m _ (by omega), show (2 * i + 1) / 2 = i by omega]

theorem expand16_injective {m1 m2 : Mask16} (h : expand16 m1 = expand16 m2) : m1 = m2 := by
  apply BitVec.eq_of_getLsbD_eq
  intro i hi
  rw [← expand16_getLsbD_even m1 hi, h, expand16_getLsbD_even m2 hi]

theorem expand16_or (a b : Mask16) : expand16 (a ||| b) = expand16 a ||| expand16 b := by
  apply expand16_eq_of_getLsbD
  intro i hi
  simp only [BitVec.getLsbD_or, expand16_getLsbD _ i hi]

theorem expand16_and (a b : Mask16) : expand16 (a &&& b) = expand16 a &&& expand16 b := by
  apply expand16_eq_of_getLsbD
  intro i hi
  simp only [BitVec.getLsbD_and, expand16_getLsbD _ i hi]

theorem expand16_not (a : Mask16) : expand16 (~~~a) = ~~~(expand16 a) := by
  apply expand16_eq_of_getLsbD
  intro i hi
  have hcycle : i / 2 < 16 := by omega
  simp only [BitVec.getLsbD_not, expand16_getLsbD _ i hi, hi, hcycle]

theorem expand16_zero : expand16 0 = 0 :=
  expand16_eq_of_getLsbD fun i _ => by simp

/-- One cycle is two code bits. At fixed widths this needs no bound on the mask: the top pair falls out with the top
mask bit. -/
theorem expand16_shiftLeft_one (a : Mask16) : expand16 (a <<< 1) = expand16 a <<< 2 := by
  apply expand16_eq_of_getLsbD
  intro i hi
  rw [BitVec.getLsbD_shiftLeft, BitVec.getLsbD_shiftLeft]
  by_cases h : i < 2
  · have hcycle : i / 2 < 1 := by omega
    simp [h, hcycle]
  · have hcycle : i / 2 < 16 ∧ ¬ i / 2 < 1 := by omega
    have hprev : (i - 2) / 2 = i / 2 - 1 := by omega
    rw [expand16_getLsbD a _ (by omega), hprev]
    simp [h, hi, hcycle]

/-- Counting over each number twice counts twice. -/
theorem countP_range_half (p : Nat → Bool) (n : Nat) :
    (List.range (2 * n)).countP (fun i => p (i / 2)) = 2 * (List.range n).countP p := by
  induction n with
  | zero => rfl
  | succ n ih =>
    have heven : 2 * n / 2 = n := by omega
    have hodd : (2 * n + 1) / 2 = n := by omega
    rw [Nat.mul_succ, List.range_succ, List.range_succ, List.range_succ]
    simp only [List.countP_append, List.countP_singleton, ih, heven, hodd]
    omega

theorem expand16_popcount (a : Mask16) :
    (List.range 32).countP (fun i => (expand16 a).getLsbD i) = 2 * (List.range 16).countP (fun i => a.getLsbD i) := by
  rw [← countP_range_half]
  apply List.countP_congr
  intro i hi
  rw [expand16_getLsbD a i (List.mem_range.1 hi)]

/-! ### Pair by pair -/

/-- The code of a cycle: `11` when it is driven, `00` when it is released. -/
theorem expand16_pair (m : Mask16) {i : Nat} (hi : i < 16) :
    (expand16 m).extractLsb' (2 * i) 2 = if m.getLsbD i then 0b11#2 else 0b00#2 := by
  apply BitVec.eq_of_getLsbD_eq
  intro j hj
  have hcycle : (2 * i + j) / 2 = i := by omega
  rw [BitVec.getLsbD_extractLsb', expand16_getLsbD m _ (by omega), hcycle]
  cases m.getLsbD i
  · simp
  · have hthree : (3#2).getLsbD j = true := by interval_cases j <;> rfl
    simp [hj, hthree]

/-- The pair of a driven cycle, left where it stands in the code. -/
theorem expand16_and_pairMask {m : Mask16} {i : Nat} (hm : m.getLsbD i = true) :
    expand16 m &&& (3#32 <<< (2 * i)) = 3#32 <<< (2 * i) := by
  apply BitVec.eq_of_getLsbD_eq
  intro j hj
  rw [BitVec.getLsbD_and, expand16_getLsbD m j hj, BitVec.getLsbD_shiftLeft, three_getLsbD]
  by_cases hpair : j / 2 = i
  · simp [hpair, hm]
  · have hout : j < 2 * i ∨ ¬ j - 2 * i < 2 := by omega
    rcases hout with h | h <;> simp [h]

/-! ### As a number -/

/-- The pair of a cycle is the digit 3 at its place in base 4. -/
theorem pairMask_toNat {i : Nat} (hi : i < 16) : (3#32 <<< (2 * i)).toNat = 3 * 4 ^ i := by
  have hle : 4 ^ i ≤ 4 ^ 15 := Nat.pow_le_pow_right (by decide) (by omega)
  have hlt : 3 * 4 ^ i < 2 ^ 32 := by omega
  have hpow : 2 ^ (2 * i) = 4 ^ i := Nat.pow_mul 2 2 i
  rw [BitVec.toNat_shiftLeft, Nat.shiftLeft_eq, hpow]
  exact Nat.mod_eq_of_lt hlt

/-- The pairs below cycle `n` are a number of `n` digits in base 4. -/
theorem expandBelow_toNat_lt (m : Mask16) (n : Nat) : (expandBelow m n).toNat < 4 ^ n := by
  have hpow : 4 ^ n = 2 ^ (2 * n) := (Nat.pow_mul 2 2 n).symm
  rw [hpow]
  apply Nat.lt_pow_two_of_testBit
  intro i hi
  rw [BitVec.testBit_toNat]
  by_cases h : i < 32
  · have hcycle : ¬ i / 2 < n := by omega
    simp [expandBelow_getLsbD m n i h, hcycle]
  · exact BitVec.getLsbD_of_ge _ _ (by omega)

/-- Each driven cycle adds its digit: the pair it ors in lies above all the pairs before it. -/
theorem expandBelow_succ_toNat (m : Mask16) {n : Nat} (hn : n < 16) :
    (expandBelow m (n + 1)).toNat = (expandBelow m n).toNat + (if m.getLsbD n then 1 else 0) * 3 * 4 ^ n := by
  by_cases hm : m.getLsbD n
  · have hlow : (expandBelow m n).toNat < 2 ^ (2 * n) := by
      rw [Nat.pow_mul]; exact expandBelow_toNat_lt m n
    have hpair : 3 * 4 ^ n = 2 ^ (2 * n) * 3 := by rw [Nat.pow_mul, Nat.mul_comm]
    rw [expandBelow, if_pos hm, BitVec.toNat_or, pairMask_toNat hn, hpair, Nat.or_comm,
      ← Nat.two_pow_add_eq_or_of_lt hlow, if_pos hm, Nat.one_mul, hpair, Nat.add_comm]
  · rw [expandBelow, if_neg hm, if_neg hm]
    omega

theorem expandBelow_toNat (m : Mask16) {n : Nat} (hn : n ≤ 16) :
    (expandBelow m n).toNat = ((List.range n).map fun i => (if m.getLsbD i then 1 else 0) * 3 * 4 ^ i).sum := by
  induction n with
  | zero => rfl
  | succ n ih =>
    rw [expandBelow_succ_toNat m hn, ih (Nat.le_of_lt hn), List.range_succ, List.map_append, List.sum_append,
      List.map_singleton, List.sum_singleton]

/-- The low `n + 1` bits of a mask are its low `n` bits and the bit of cycle `n`. -/
theorem mask_mod_two_pow_succ (m : Mask16) (n : Nat) :
    m.toNat % 2 ^ (n + 1) = m.toNat % 2 ^ n + 2 ^ n * (m.getLsbD n).toNat := by
  rw [Nat.pow_succ, Nat.mod_mul, ← BitVec.testBit_toNat, Nat.toNat_testBit]

/-- Masks compare by the last cycle in which they differ, and so do their codes. -/
theorem expandBelow_lt {m1 m2 : Mask16} {n : Nat} (hn : n ≤ 16) (h : m1.toNat % 2 ^ n < m2.toNat % 2 ^ n) :
    (expandBelow m1 n).toNat < (expandBelow m2 n).toNat := by
  induction n with
  | zero => simp [Nat.mod_one] at h
  | succ n ih =>
    have hlow2 : m2.toNat % 2 ^ n < 2 ^ n := Nat.mod_lt _ (Nat.two_pow_pos n)
    have hcode1 : (expandBelow m1 n).toNat < 4 ^ n := expandBelow_toNat_lt m1 n
    rw [mask_mod_two_pow_succ, mask_mod_two_pow_succ] at h
    rw [expandBelow_succ_toNat m1 hn, expandBelow_succ_toNat m2 hn]
    rcases lt_trichotomy (m1.getLsbD n) (m2.getLsbD n) with hlt | heq | hgt
    · obtain ⟨hbit1, hbit2⟩ := Bool.lt_iff.1 hlt
      simp only [hbit1, hbit2, Bool.false_eq_true, if_true, if_false]
      omega
    · rw [heq] at h ⊢
      have hrest := ih (Nat.le_of_lt hn) (by omega)
      omega
    · obtain ⟨hbit2, hbit1⟩ := Bool.lt_iff.1 hgt
      simp only [hbit1, hbit2, Bool.toNat_true, Bool.toNat_false] at h
      omega

theorem expand16_strictMono {m1 m2 : Mask16} (h : m1 < m2) : expand16 m1 < expand16 m2 := by
  apply expandBelow_lt (Nat.le_refl 16)
  rwa [Nat.mod_eq_of_lt m1.isLt, Nat.mod_eq_of_lt m2.isLt]

/-- The pair of an earlier cycle weighs less. -/
theorem expand16_pair_lt {m : Mask16} {i j : Nat} (hij : i < j) (hj : j < 16) (hmi : m.getLsbD i = true)
    (hmj : m.getLsbD j = true) :
    (expand16 m &&& (3#32 <<< (2 * i))).toNat < (expand16 m &&& (3#32 <<< (2 * j))).toNat := by
  have hi : i < 16 := Nat.lt_trans hij hj
  rw [expand16_and_pairMask hmi, expand16_and_pairMask hmj, pairMask_toNat hi, pairMask_toNat hj]
  have hpow : 4 ^ i < 4 ^ j := Nat.pow_lt_pow_right (by decide) hij
  omega

/-! ### The statements about the expansion -/

/-- Settles O7: the two bits of a pair, and the code as its digits in base 4. -/
theorem expansionDoublesEveryBit : Obligations.ExpansionDoublesEveryBit := by
  unfold Obligations.ExpansionDoublesEveryBit
  exact fun m => ⟨fun _ hi => ⟨expand16_getLsbD_even m hi, expand16_getLsbD_odd m hi⟩,
    expandBelow_toNat m (Nat.le_refl 16)⟩

/-- Settles O8: a pair is `11` or `00` as its cycle is driven or released. -/
theorem bothSubPhasesAgree : Obligations.BothSubPhasesAgree := by
  unfold Obligations.BothSubPhasesAgree
  intro m i hi
  rw [expand16_pair m hi]
  cases m.getLsbD i <;> decide

/-- Settles O9: the even bits give the mask back, a pair is that of its own mask bit, and both orders are those of the
digits in base 4. -/
theorem expansionIsInjectiveAndOrdered : Obligations.ExpansionIsInjectiveAndOrdered := by
  unfold Obligations.ExpansionIsInjectiveAndOrdered
  refine ⟨fun _ _ => expand16_injective, fun m1 m2 i hi hbit => ?_, fun _ _ _ => expand16_pair_lt,
    fun _ _ => expand16_strictMono⟩
  rw [expand16_pair m1 hi, expand16_pair m2 hi, hbit]

/-- Settles O10: each law holds bit by bit. -/
theorem expansionLaws : Obligations.ExpansionLaws := by
  unfold Obligations.ExpansionLaws
  exact ⟨expand16_or, expand16_and, expand16_not, expand16_zero, expand16_popcount,
    fun a _ hi => (expand16_getLsbD_even a hi).symm, fun a _ => expand16_shiftLeft_one a⟩

end Sys2Proof.Machine
end

section
/-! SUPPORT. What `ENCODE` of an admitted address leaves (41_transaction_encoder.md R121), as a function of the
operands and the platform's parameters alone (R129, R130). -/

namespace Sys2Proof.Machine

variable {a v : Byte} {s : State}

theorem addressAdmitted_of_le (h : a ≤ 0x3F#8) : addressAdmitted a = true :=
  decide_eq_true h

/-- The state after `ENCODE` of an admitted address. -/
def encoded (a v : Byte) (s : State) : State := succeed .ok 0 (encodeBody a v (accept s))

theorem exec_encode_of_le (h : a ≤ 0x3F#8) : exec (.encode a v) s = .next (encoded a v s) := by
  simp [exec, execEncode, addressAdmitted_of_le h, encoded]

/-! ### The writes of R121 -/

@[simp] theorem encoded_tx : (encoded a v s).tx =
    { commandByte := commandByteOf a, valueByte := v, driveMask := driveMaskWrite,
      expectedHandshake := expectedHandshakeWrite } := by
  simp [encoded]

@[simp] theorem encoded_dataBuf :
    (encoded a v s).buf.dataBuf = frame s.cfg.idleCode (commandByteOf a) v := by
  simp [encoded]

@[simp] theorem encoded_stpBuf : (encoded a v s).buf.stpBuf = s.cfg.stpPatternWrite := by
  simp [encoded]

/-! ### The idle cycles of the frame -/

/-- Cycle 0 and the cycles from 5 on carry the idle code, whatever the two bytes are (R130). -/
theorem frame_idle (idle command value : Byte) {k : Nat} (hk : k < 8) (hidle : k = 0 ∨ 5 ≤ k) :
    (frame idle command value)[k] = idle := by
  have hcases : k = 0 ∨ k = 5 ∨ k = 6 ∨ k = 7 := by omega
  rcases hcases with rfl | rfl | rfl | rfl <;> rfl

/-- After any two `ENCODE` operations on one platform the idle cycles are equal. -/
theorem encoded_dataBuf_idle_eq {a' v' : Byte} {s' : State} (hcfg : s.cfg = s'.cfg) {k : Nat} (hk : k < 8)
    (hidle : k = 0 ∨ 5 ≤ k) : (encoded a v s).buf.dataBuf[k] = (encoded a' v' s').buf.dataBuf[k] := by
  simp only [encoded_dataBuf, frame_idle _ _ _ hk hidle, hcfg]

/-! ### The statements about what `ENCODE` depends on -/

/-- Settles O15: each register and buffer written is a function of the operands and the parameters. -/
theorem equalOperandsEncodeEqualFrames : Obligations.EqualOperandsEncodeEqualFrames := by
  unfold Obligations.EqualOperandsEncodeEqualFrames
  intro a v s1 s2 ha hcfg
  refine ⟨encoded a v s1, encoded a v s2, exec_encode_of_le ha, exec_encode_of_le ha, ?_, ?_, ?_⟩
  · rw [encoded_tx, encoded_tx]
  · rw [encoded_dataBuf, encoded_dataBuf, hcfg]
  · rw [encoded_stpBuf, encoded_stpBuf, hcfg]

/-- Settles O16: the idle cycles, the stop pattern and the two write constants do not have the operands in them. -/
theorem onlyTheCommandAndValueDependOnTheOperands : Obligations.OnlyTheCommandAndValueDependOnTheOperands := by
  unfold Obligations.OnlyTheCommandAndValueDependOnTheOperands
  intro a v a' v' s1 s2 ha ha' hcfg
  have hidle {k : Nat} (hk : k < 8) (h : k = 0 ∨ 5 ≤ k) :
      (encoded a v s1).buf.dataBuf[k] = (encoded a' v' s2).buf.dataBuf[k] := encoded_dataBuf_idle_eq hcfg hk h
  refine ⟨encoded a v s1, encoded a' v' s2, exec_encode_of_le ha, exec_encode_of_le ha',
    hidle (by decide) (by decide), hidle (by decide) (by decide), hidle (by decide) (by decide),
    hidle (by decide) (by decide), ?_, ?_, ?_⟩
  · rw [encoded_tx, encoded_tx]
  · rw [encoded_stpBuf, encoded_stpBuf, hcfg]
  · rw [encoded_tx, encoded_tx]

end Sys2Proof.Machine
end

section
/-! SUPPORT. The two answers of `VALIDATE` (43_handshake_validator.md R172), each from the shared response operation it
ends in: `succeed` where the two words are equal, `raise` where they differ. -/

namespace Sys2Proof.Machine

/-! ### What the shared responses leave -/

theorem writeResponse_onlyResponseDiffers (c : BitVec 4) (st : BitVec 3) (i : Byte)
    (w : Option (Word32 × Word32)) (s : State) : OnlyResponseDiffers s (writeResponse c st i w s) :=
  ⟨rfl, rfl, rfl, rfl, rfl, rfl, rfl, rfl, rfl⟩

theorem succeed_responded (c : Success) (i : Byte) (s : State) : Responded c.code 0 i (succeed c i s) :=
  ⟨rfl, rfl, rfl, rfl, rfl, rfl⟩

theorem raise_responded (f : Failure) (s : State) : Responded f.code f.stage f.info (raise f s) :=
  ⟨rfl, rfl, rfl, rfl, rfl, rfl⟩

/-- Acceptance touches the port alone, so what changes only the response after it changes only the response. -/
theorem onlyResponseDiffers_of_accept {s t : State} (h : OnlyResponseDiffers (accept s) t) :
    OnlyResponseDiffers s t := by
  simpa only [OnlyResponseDiffers, accept_cfg, accept_session, accept_tx, accept_buf, accept_ctl, accept_pins,
    accept_owner, accept_env, accept_inputs] using h

/-! ### `VALIDATE` -/

theorem exec_validate (s : State) : exec .validate s = .next (validateResponse (accept s)) := rfl

theorem validateResponse_of_eq {s : State} (h : s.buf.capBuf = s.tx.expectedHandshake) :
    validateResponse s = succeed .ok 0 s :=
  if_pos h

theorem validateResponse_of_ne {s : State} (h : s.buf.capBuf ≠ s.tx.expectedHandshake) :
    validateResponse s = raise (.handshakeMismatch s.tx.expectedHandshake s.buf.capBuf) s :=
  if_neg h

theorem validateResponse_onlyResponseDiffers (s : State) : OnlyResponseDiffers s (validateResponse s) := by
  obtain ⟨c, st, i, w, hresponse, _, _⟩ := validateResponse_spec s
  rw [hresponse]
  exact writeResponse_onlyResponseDiffers c st i w s

/-- Settles O30: two words are equal where all their bits are, and a bit that differs tells them apart. -/
theorem validateComparesAllThirtyTwoBits : Obligations.ValidateComparesAllThirtyTwoBits := by
  unfold Obligations.ValidateComparesAllThirtyTwoBits
  intro s
  refine ⟨_, exec_validate s, onlyResponseDiffers_of_accept (validateResponse_onlyResponseDiffers _), ?_, ?_⟩
  · intro hbits
    have heq : (accept s).buf.capBuf = (accept s).tx.expectedHandshake := BitVec.eq_of_getLsbD_eq hbits
    rw [validateResponse_of_eq heq]
    exact succeed_responded .ok 0 _
  · rintro ⟨i, _, hbit⟩
    have hne : (accept s).buf.capBuf ≠ (accept s).tx.expectedHandshake := fun heq =>
      hbit (congrArg (BitVec.getLsbD · i) heq)
    rw [validateResponse_of_ne hne]
    exact ⟨raise_responded _ _, raise_mismatch_rspExpected _ _ _, raise_mismatch_rspObserved _ _ _⟩

end Sys2Proof.Machine
end

section
/-! SUPPORT. The delays of `BRING_UP` (44_bringup_fsm.md R183 to R189): what a look at the reset hold or at the settle
delay gives before its deadline and at it, by an instant or by the block itself. -/

namespace Sys2Proof.Machine

/-! ### Events of an instant of a delay -/

/-- With the channels stopped and the data pins released there is nothing to halt (R157). -/
theorem haltAll_of_released {s : State} (hr : s.ctl.running = false) (h0 : s.pins.dataOe0 = false)
    (h1 : s.pins.dataOe1 = false) : haltAll s = s := by
  obtain ⟨_, _, _, _, ctl, _, pins, _, _, _, _, _⟩ := s
  obtain ⟨_, _, _, _, _⟩ := pins
  obtain ⟨_, _, _, _, _, _, _, _⟩ := ctl
  simp_all [haltAll, releaseData]

/-- So a halt request there changes nothing. -/
theorem haltEvent_of_released {s : State} (hr : s.ctl.running = false) (h0 : s.pins.dataOe0 = false)
    (h1 : s.pins.dataOe1 = false) : haltEvent s = s := by
  unfold haltEvent
  split
  · exact haltAll_of_released hr h0 h1
  · rfl

/-- With the channels stopped and the data pins released an instant short of a hardware reset is a look. -/
theorem tick_of_released {e : Instant} {s : State} (hr : s.ctl.running = false) (h0 : s.pins.dataOe0 = false)
    (h1 : s.pins.dataOe1 = false) (he : e.rstN = true) : tick e s = .next (advance { s with env := e }) := by
  have hev : events { s with env := e } = .next { s with env := e } :=
    (events_of_not_running (s := { s with env := e }) hr).trans
      (congrArg _ (haltEvent_of_released (s := { s with env := e }) hr h0 h1))
  rw [tick, if_pos he, hev, andThen_next]

/-! ### One look at a delay -/

/-- Before its deadline a look at a delay changes nothing. -/
theorem advance_of_early {s : State} (hf : s.inFlight = .bringUpHold ∨ s.inFlight = .bringUpSettle)
    (h : s.env.now < s.session.buDeadline) : advance s = s := by
  have hlate : ¬ s.session.buDeadline ≤ now s := Nat.not_le.2 h
  rcases hf with hf | hf
  · rw [advance_of_hold hf, waitHold, if_neg hlate]
  · rw [advance_of_settle hf, waitSettle, if_neg hlate]

section Look

variable {s : State} {x : Instant}

/-- A look at the reset hold at its deadline releases the reset pin, and the settle delay counts from there (R184,
R185). -/
theorem settleBegins_of_hold (hf : s.inFlight = .bringUpHold) (hT : 0 < s.cfg.tSettle)
    (hx : x.now = s.session.buDeadline) : SettleBegins s (advance { s with env := x }) := by
  have hlook : advance { s with env := x } = enterResetReleased { s with env := x } := by
    have hend : s.session.buDeadline ≤ x.now := Nat.le_of_eq hx.symm
    have hwait : ¬ x.now + s.cfg.tSettle ≤ x.now := by omega
    exact (advance_of_hold (s := { s with env := x }) hf).trans ((if_pos hend).trans (if_neg hwait))
  rw [hlook]
  exact ⟨hx, rfl, rfl, by simp only [enterResetReleased, now, hx], rfl, rfl, rfl, rfl, rfl⟩

/-- A look at the settle delay at its deadline de-asserts the stop pin and polls DIR (R186 to R189). -/
theorem pollingBegins_of_settle (hf : s.inFlight = .bringUpSettle) (hT : 0 < s.cfg.tClockDeadline)
    (hx : x.now = s.session.buDeadline) : PollingBegins s (dirAt s.cfg x) (advance { s with env := x }) := by
  have hend : s.session.buDeadline ≤ x.now := Nat.le_of_eq hx.symm
  have hlook : advance { s with env := x } = pollDir (enterAwaitingClockStable { s with env := x }) :=
    (advance_of_settle (s := { s with env := x }) hf).trans (if_pos hend)
  have hdir : dirIn (enterAwaitingClockStable { s with env := x }) = dirAt s.cfg x := rfl
  rw [hlook]
  cases hd : dirAt s.cfg x with
  | true =>
    have hwait : ¬ x.now + s.cfg.tClockDeadline ≤ x.now := by omega
    have hpoll : pollDir (enterAwaitingClockStable { s with env := x }) =
        enterAwaitingClockStable { s with env := x } := (if_pos (hdir.trans hd)).trans (if_neg hwait)
    rw [hpoll]
    exact ⟨hx, rfl, rfl, rfl, rfl, fun _ => ⟨rfl, rfl, rfl, rfl, congrArg (· + s.cfg.tClockDeadline) hx⟩,
      Bool.noConfusion⟩
  | false =>
    rw [pollDir_of_released (hdir.trans hd)]
    exact ⟨hx, rfl, rfl, rfl, rfl, Bool.noConfusion, fun _ => ⟨rfl, rfl, rfl, rfl⟩⟩

end Look

/-- In a gap of the instants past the deadline of a delay the block looks at the deadline, with the levels of the
present instant (log entry 15). -/
theorem lookBefore_of_gap {e : Instant} {s : State} (hb : s.port.busy = true)
    (hf : s.inFlight = .bringUpHold ∨ s.inFlight = .bringUpSettle) (h : s.session.buDeadline < e.now) :
    lookBefore e s = advance { s with env := held s.session.buDeadline s.env } := by
  have hdue : lookDue e s = true := by rcases hf with hf | hf <;> simp [lookDue, hb, hf, h]
  have htime : lookTime s = s.session.buDeadline := by rcases hf with hf | hf <;> simp [lookTime, hf]
  rw [lookBefore, if_pos hdue, ownLook_eq, htime]

/-! ### The statement -/

/-- Settles O34: short of a hardware reset an instant of a delay is a look, and so is the gap past its deadline, so
all turns on whether that look falls before the deadline or at it. -/
theorem theDelaysLastExactly : Obligations.TheDelaysLastExactly := by
  unfold Obligations.TheDelaysLastExactly
  intro s e hb hr h0 h1 hsettle hclock
  have htick : e.rstN = true → tick e s = .next (advance { s with env := e }) := tick_of_released hr h0 h1
  refine ⟨fun hf hlt he => ?early, fun hf => ⟨fun hat he => ?holdEnds, fun hgap => ?holdGap⟩,
    fun hf => ⟨fun hat he => ?settleEnds, fun hgap => ?settleGap⟩⟩
  case early =>
    exact ⟨catchUp_of_not_due (lookDue_of_delay hf (Nat.le_of_lt hlt)),
      (htick he).trans (congrArg _ (advance_of_early hf hlt))⟩
  case holdEnds =>
    exact ⟨catchUp_of_not_due (lookDue_of_delay (.inl hf) (Nat.le_of_eq hat)), _, htick he,
      settleBegins_of_hold hf hsettle hat⟩
  case holdGap =>
    rw [lookBefore_of_gap hb (.inl hf) hgap]
    exact settleBegins_of_hold hf hsettle rfl
  case settleEnds =>
    exact ⟨catchUp_of_not_due (lookDue_of_delay (.inr hf) (Nat.le_of_eq hat)), _, htick he,
      pollingBegins_of_settle hf hclock hat⟩
  case settleGap =>
    rw [lookBefore_of_gap hb (.inr hf) hgap]
    exact pollingBegins_of_settle hf hclock rfl

end Sys2Proof.Machine
end

section
/-! SUPPORT. The looks between two instants as instants (44_bringup_fsm.md R183, R185, R188; 42_bus_controller.md R155;
log entry 15). A step takes the instants it drains from the state, so first: the looks, the instants and the draining
of an operation in progress do not read the ones that the state holds. -/

namespace Sys2Proof.Machine

/-- The state with other instants still to come. -/
def State.withInputs (es : List Instant) (s : State) : State := { s with inputs := es }

section WithInputs

variable (es : List Instant) (s : State)

/-! ### Looks -/

theorem pollDir_withInputs : pollDir (s.withInputs es) = (pollDir s).withInputs es := by
  unfold pollDir
  simp only [apply_ite (State.withInputs es)]
  rfl

theorem waitSettle_withInputs : waitSettle (s.withInputs es) = (waitSettle s).withInputs es := by
  unfold waitSettle
  rw [apply_ite (State.withInputs es), ← pollDir_withInputs]
  rfl

theorem waitHold_withInputs : waitHold (s.withInputs es) = (waitHold s).withInputs es := by
  unfold waitHold
  rw [apply_ite (State.withInputs es), ← waitSettle_withInputs]
  rfl

theorem finishRun_withInputs (o : RunOf) : finishRun o (s.withInputs es) = (finishRun o s).withInputs es := by
  cases o with
  | run => rfl
  | writeRegister =>
    simp only [finishRun, validateResponse, apply_ite (State.withInputs es)]
    rfl

theorem waitRun_withInputs (o : RunOf) (t0 : Nat) :
    waitRun o t0 (s.withInputs es) = (waitRun o t0 s).withInputs es := by
  unfold waitRun
  rw [apply_ite (State.withInputs es), ← finishRun_withInputs]
  refine if_congr Iff.rfl ?_ rfl
  have hcfg : (s.withInputs es).cfg = s.cfg := rfl
  rw [hcfg]
  cases s.cfg.runTimeout with
  | none => rfl
  | some t =>
    exact (apply_ite (State.withInputs es) (t ≤ elapsedSince (now s) t0)
      (raise .transactionTimeout (haltAll s)) s).symm

theorem advance_withInputs : advance (s.withInputs es) = (advance s).withInputs es := by
  have hf : (s.withInputs es).inFlight = s.inFlight := rfl
  unfold advance
  rw [hf]
  cases s.inFlight with
  | idle => rfl
  | bringUpHold => exact waitHold_withInputs es s
  | bringUpSettle => exact waitSettle_withInputs es s
  | bringUpPoll => exact pollDir_withInputs es s
  | run t0 => exact waitRun_withInputs es s .run t0
  | writeRun t0 => exact waitRun_withInputs es s .writeRegister t0

theorem ownLook_withInputs : ownLook (s.withInputs es) = (ownLook s).withInputs es := by
  rw [ownLook_eq, ownLook_eq]
  exact advance_withInputs es { s with env := held (lookTime s) s.env }

theorem lookBefore_withInputs (e : Instant) :
    lookBefore e (s.withInputs es) = (lookBefore e s).withInputs es := by
  unfold lookBefore
  rw [apply_ite (State.withInputs es), ← ownLook_withInputs]
  rfl

theorem catchUp_withInputs (e : Instant) : catchUp e (s.withInputs es) = (catchUp e s).withInputs es := by
  simp only [catchUp, lookBefore_withInputs]

/-! ### Instants -/

/-- An outcome with other instants still to come, where it is a state. -/
def Result.withInputs (es : List Instant) (r : Result) : Result := andThen r fun t => .next (t.withInputs es)

theorem engineStep_withInputs (n : Bool) :
    engineStep n (s.withInputs es) = Result.withInputs es (engineStep n s) := by
  unfold engineStep
  simp only [apply_dite (Result.withInputs es)]
  rfl

theorem clockEvent_withInputs : clockEvent (s.withInputs es) = Result.withInputs es (clockEvent s) := by
  unfold clockEvent
  rw [apply_ite (Result.withInputs es), ← engineStep_withInputs]
  rfl

theorem haltEvent_withInputs : haltEvent (s.withInputs es) = (haltEvent s).withInputs es := by
  unfold haltEvent
  rw [apply_ite (State.withInputs es)]
  rfl

theorem andThen_withInputs (r : Result) {f : State → Result}
    (hf : ∀ t, f (t.withInputs es) = Result.withInputs es (f t)) :
    andThen (Result.withInputs es r) f = Result.withInputs es (andThen r f) := by
  cases r with
  | next t => exact hf t
  | fault _ => rfl
  | refused _ => rfl

theorem events_withInputs : events (s.withInputs es) = Result.withInputs es (events s) := by
  unfold events
  rw [clockEvent_withInputs]
  exact andThen_withInputs es _ fun t => congrArg _ (haltEvent_withInputs es t)

theorem tick_withInputs (e : Instant) : tick e (s.withInputs es) = Result.withInputs es (tick e s) := by
  have hev : events { s.withInputs es with env := e } = Result.withInputs es (events { s with env := e }) :=
    events_withInputs es { s with env := e }
  unfold tick
  rw [apply_ite (Result.withInputs es), hev, andThen_withInputs]
  · rfl
  · exact fun t => congrArg _ (advance_withInputs es t)

end WithInputs

/-- Draining a list of instants leaves what is left of it, and not what the state held. -/
theorem drain_withInputs (listed es : List Instant) (s : State) : drain es (s.withInputs listed) = drain es s := by
  induction es generalizing s with
  | nil => rfl
  | cons e es ih =>
    rw [drain, drain, catchUp_withInputs, tick_withInputs]
    refine if_congr Iff.rfl ?_ rfl
    cases tick e (catchUp e s) with
    | next t => exact ih t
    | fault _ => rfl
    | refused _ => rfl

/-! ### A look as an instant -/

/-- Before an instant at the time of the block's own look no look is due. -/
theorem lookDue_held (x : Instant) (s : State) : lookDue (held (lookTime s) x) s = false := by
  rw [← Bool.not_eq_true]
  exact fun hdue => Nat.lt_irrefl _ (lookTime_lt hdue)

/-- A look that is due before the next instant is an instant at that time, with the levels of the present one and no
event. -/
theorem drain_gap {e : Instant} {s : State} (h : lookDue e s = true) (rest : List Instant) :
    drain (e :: rest) s = drain (held (lookTime s) s.env :: e :: rest) s := by
  rw [drain_busy (busy_of_lookDue h) (lookDue_held s.env s), tick_held, andThen_next, ← ownLook_eq, drain_look h]

/-- A step of a busy block drains the instants held. -/
theorem step_of_busy {s : State} (hb : s.port.busy = true) (e : Instant) (es : List Instant) :
    step { s with inputs := e :: es } = drain (e :: es) s :=
  (step_busy (s := { s with inputs := e :: es }) hb rfl).trans (drain_withInputs (e :: es) (e :: es) s)

/-! ### The statement -/

/-- Settles O35: the look that is due is made by the instant put in, before which no look is due; a step is the
draining of the instants held. -/
theorem gapsAreAsIfAnInstantFell : Obligations.GapsAreAsIfAnInstantFell := by
  unfold Obligations.GapsAreAsIfAnInstantFell
  intro s e rest hdue
  have hb : s.port.busy = true := busy_of_lookDue hdue
  refine ⟨lookTime_lt hdue, drain_gap hdue rest, ?_⟩
  rw [step_of_busy hb, step_of_busy hb, drain_gap hdue rest]

end Sys2Proof.Machine
end

section
/-! SUPPORT. Step 1 of `WRITE_REGISTER` (45_register_write.md R210 to R212): the first check of `CONFIGURE` that fails
is the violation that both operations report, and over the reference table only a pin check can fail. -/

namespace Sys2Proof.Machine

/-! ### The first check that fails -/

/-- A Boolean check stands for a proposition, and reports the `rsp_info` given with it (R90). -/
def CheckStandsFor (check : Bool × Chan × SubCause) (stated : Prop × Byte) : Prop :=
  (check.1 = true ↔ stated.1) ∧ (Failure.configurationError check.2.1 check.2.2).info = stated.2

/-- The checks of the model are those the spec lists, one by one. -/
theorem checkList_standsFor (s : State) : List.Forall₂ CheckStandsFor (checkList s) (configureChecks s) := by
  have pow2 {n : Nat} {c : Chan} {info : Byte} (h : (Failure.configurationError c .bufLenNotPow2).info = info) :
      CheckStandsFor (isPow2 n, c, .bufLenNotPow2) (∃ k, n = 2 ^ k, info) := ⟨isPow2_iff n, h⟩
  have limit {m n : Nat} {c : Chan} {info : Byte}
      (h : (Failure.configurationError c .cycleLimitMismatch).info = info) :
      CheckStandsFor (m == n, c, .cycleLimitMismatch) (m = n, info) := ⟨beq_iff_eq, h⟩
  have presence {d : Descriptor} {c : Chan} {info : Byte}
      (h : (Failure.configurationError c .dirBufPresence).info = info) :
      CheckStandsFor (decide (d.mode = .bidirectional) == d.directionBufferLen.isSome, c, .dirBufPresence)
        (d.mode = .bidirectional ↔ d.directionBufferLen ≠ none, info) := ⟨presence_iff d, h⟩
  have fits {d : Descriptor} {c : Chan} {info : Byte}
      (h : (Failure.configurationError c .bufferTooSmall).info = info) :
      CheckStandsFor (bufferHolds d, c, .bufferTooSmall) (BufferFits d, info) := ⟨bufferHolds_iff d, h⟩
  have pins {ps : List Pin} {c : Chan} {info : Byte}
      (h : (Failure.configurationError c .pinUnavailable).info = info) :
      CheckStandsFor (ps.all (pinAvailable s), c, .pinUnavailable) (∀ p ∈ ps, PinBindable s p, info) :=
    ⟨allAvailable_iff s ps, h⟩
  exact
    .cons (pow2 rfl) <| .cons (pow2 rfl) <| .cons (pow2 rfl) <| .cons (limit rfl) <| .cons (limit rfl) <|
    .cons (presence rfl) <| .cons (presence rfl) <| .cons (presence rfl) <|
    .cons (fits rfl) <| .cons (fits rfl) <| .cons (fits rfl) <|
    .cons (pins rfl) <| .cons (pins rfl) <| .cons (pins rfl) .nil

/-- The first failing check of a list reports the `rsp_info` that stands with the first failing proposition. -/
theorem firstFailure_of_standsFor {checks : List (Bool × Chan × SubCause)} {held later : List (Prop × Byte)}
    {failed : Prop} {info : Byte}
    (hlist : List.Forall₂ CheckStandsFor checks (held ++ (failed, info) :: later)) (hheld : ∀ c ∈ held, c.1)
    (hfailed : ¬ failed) :
    ∃ c k, firstFailure checks = some (c, k) ∧ (Failure.configurationError c k).info = info := by
  induction held generalizing checks with
  | nil =>
    obtain ⟨⟨good, c, k⟩, _, ⟨hgood, hinfo⟩, _, rfl⟩ := List.forall₂_cons_right_iff.1 hlist
    have hbad : ¬ good = true := fun h => hfailed (hgood.1 h)
    exact ⟨c, k, if_neg hbad, hinfo⟩
  | cons stated held ih =>
    obtain ⟨⟨good, v⟩, rest, ⟨hgood, _⟩, hrest, rfl⟩ := List.forall₂_cons_right_iff.1 hlist
    have hholds : good = true := hgood.2 (hheld stated List.mem_cons_self)
    obtain ⟨c, k, hfirst, hinfo⟩ := ih hrest fun x hx => hheld x (List.mem_cons_of_mem _ hx)
    exact ⟨c, k, (if_pos hholds).trans hfirst, hinfo⟩

/-- The violation `CONFIGURE` finds is the first of the listed checks that fails (R229). -/
theorem configureViolation_of_first_failed {s : State} {held later : List (Prop × Byte)} {failed : Prop}
    {info : Byte} (hlist : configureChecks s = held ++ (failed, info) :: later) (hheld : ∀ c ∈ held, c.1)
    (hfailed : ¬ failed) :
    ∃ c k, configureViolation s = some (c, k) ∧ (Failure.configurationError c k).info = info := by
  rw [configureViolation_eq]
  exact firstFailure_of_standsFor (hlist ▸ checkList_standsFor s) hheld hfailed

/-! ### What a violation answers -/

theorem exec_configure_of_violation {s : State} {c : Chan} {k : SubCause} (h : configureViolation s = some (c, k)) :
    exec .configure s = .next (raise (.configurationError c k) (accept s)) := by
  simp [exec, execConfigure, h]

theorem exec_writeRegister_of_violation {a v : Byte} {s : State} {c : Chan} {k : SubCause} (ha : a ≤ 0x3F#8)
    (h : configureViolation s = some (c, k)) :
    exec (.writeRegister a v) s = .next (raise (.configurationError c k) (accept s)) := by
  simp [exec, execWriteRegister, addressAdmitted_of_le ha, h]

/-- A failure raised at acceptance changes nothing but the response (60_exceptions.md R234). -/
theorem raise_accept_onlyResponseDiffers (f : Failure) (s : State) : OnlyResponseDiffers s (raise f (accept s)) :=
  onlyResponseDiffers_of_accept (writeResponse_onlyResponseDiffers ..)

/-- Settles O41: the violation found by step 1 is the first failed check, and it is raised at acceptance. -/
theorem writeRegisterStopsAtAFailedConfigure : Obligations.WriteRegisterStopsAtAFailedConfigure := by
  unfold Obligations.WriteRegisterStopsAtAFailedConfigure
  intro a v s held later failed info ha hlist hheld hfailed
  obtain ⟨c, k, hviolation, rfl⟩ := configureViolation_of_first_failed hlist hheld hfailed
  exact ⟨_, exec_writeRegister_of_violation ha hviolation, raise_responded _ _, raise_accept_onlyResponseDiffers _ s⟩

/-! ### The reference table -/

/-- The reference table passes every descriptor check, where its buffers hold `CYCLE_LIMIT` cycles (R30, R61, R142). -/
theorem descriptorViolation_referenceTable {limit : Nat} (h : limit ≤ 8) (cs : ClockSource) (o i : ClockEdge) :
    descriptorViolation (referenceTable limit cs o i) = none := by
  have hdata : limit * Pin.dataPins.length ≤ 8 * 8 := Nat.mul_le_mul_right 8 h
  have hdir : 2 * limit ≤ 8 * 4 := by omega
  have hbit : limit ≤ 32 := by omega
  have h8 : isPow2 8 = true := by decide
  have h4 : isPow2 4 = true := by decide
  simp [descriptorViolation, firstBad, Chan.all, Descriptors.get, referenceTable, bufferHolds, hdata, hdir, hbit, h8, h4]

/-- So over the reference table only a pin can fail `CONFIGURE` (R143). -/
theorem configureViolation_of_reference {s : State} (h : ReferencePlatform s.cfg) :
    configureViolation s = pinViolation s := by
  obtain ⟨hdesc, _, h8⟩ := h
  rw [configureViolation, hdesc, Params.reference, descriptorViolation_referenceTable h8]
  rfl

/-- The pin checks over the reference table: the data pins, then the stop pin, then NXT. -/
theorem pinViolation_of_reference {s : State} (h : ReferencePlatform s.cfg) : pinViolation s =
    if Pin.dataPins.all (pinAvailable s) then
      if pinAvailable s .stp then
        if pinAvailable s .nxt then none else some (.nxt, .pinUnavailable)
      else some (.stp, .pinUnavailable)
    else some (.data, .pinUnavailable) := by
  obtain ⟨hdesc, _, _⟩ := h
  simp [pinViolation, firstBad, Chan.all, Descriptors.get, hdesc, Params.reference, referenceTable]

theorem configureViolation_of_bindable {s : State} (h : ReferencePlatform s.cfg) (hp : AllPinsBindable s) :
    configureViolation s = none := by
  have havailable {p : Pin} (hmem : p ∈ Pin.dataPins ++ [.stp, .nxt]) : pinAvailable s p = true :=
    (pinAvailable_iff s p).2 (hp p hmem)
  have hdata : Pin.dataPins.all (pinAvailable s) = true :=
    List.all_eq_true.2 fun _ hmem => havailable (List.mem_append_left _ hmem)
  rw [configureViolation_of_reference h, pinViolation_of_reference h, if_pos hdata, if_pos (havailable (by decide)),
    if_pos (havailable (by decide))]

/-- While the session owns the stop pin the pin phase fails: at the data pins where one is not available, else at the
stop pin (R212). -/
theorem configureViolation_of_session {s : State} (h : ReferencePlatform s.cfg) (hstp : s.owner.stp = .session) :
    ∃ c, configureViolation s = some (c, .pinUnavailable) ∧
      ((∀ p ∈ Pin.dataPins, PinBindable s p) → c = .stp) := by
  have hheld : ¬ pinAvailable s .stp = true := fun hav => ((pinAvailable_iff s .stp).1 hav).2 hstp
  rw [configureViolation_of_reference h, pinViolation_of_reference h, if_neg hheld]
  by_cases hdata : Pin.dataPins.all (pinAvailable s) = true
  · exact ⟨.stp, if_pos hdata, fun _ => rfl⟩
  · exact ⟨.data, if_neg hdata, fun hp => absurd ((allAvailable_iff s _).2 hp) hdata⟩

theorem exec_run_of_unconfigured {s : State} (h : s.ctl.configured = false) :
    exec .run s = .next (raise .illegalRun (accept s)) := by
  simp [exec, execRun, h]

/-- Settles O42: each of the three operations raises its failure at acceptance, `CONFIGURE` and `WRITE_REGISTER` the
same one. -/
theorem sessionPhaseKeepsTheBusQuiet : Obligations.SessionPhaseKeepsTheBusQuiet := by
  unfold Obligations.SessionPhaseKeepsTheBusQuiet
  intro a v s ha href hstp hconf
  obtain ⟨c, hviolation, hc⟩ := configureViolation_of_session href hstp
  have hinfo (hp : ∀ p ∈ Pin.dataPins, PinBindable s p) :
      (raise (.configurationError c .pinUnavailable) (accept s)).port.rspInfo = 0x0D := by
    rw [raise_rspInfo, hc hp]; rfl
  exact ⟨_, _, _, exec_configure_of_violation hviolation, exec_writeRegister_of_violation ha hviolation,
    exec_run_of_unconfigured hconf, rfl, rfl, raise_accept_onlyResponseDiffers _ s, rfl, rfl,
    raise_accept_onlyResponseDiffers _ s, rfl, rfl, raise_accept_onlyResponseDiffers _ s,
    fun hp => ⟨hinfo hp, hinfo hp⟩⟩

end Sys2Proof.Machine
end

section
/-! SUPPORT. The run of `WRITE_REGISTER` beside the run of `RUN` (45_register_write.md R210): two states that differ in
the response registers and in what they wait for go through the same instants, and where `RUN` answers, the write
makes the comparison of `VALIDATE`, or times out with it. -/

namespace Sys2Proof.Machine

/-! ### The comparison -/

/-- `t` answers with the comparison of the capture of `s` with the handshake it expects (43_handshake_validator.md
R172). -/
def Validated (s t : State) : Prop :=
  (s.buf.capBuf = s.tx.expectedHandshake → Responded 0 0 0 t) ∧
    (s.buf.capBuf ≠ s.tx.expectedHandshake →
      Responded 4 5 0 t ∧ t.port.rspExpected = s.tx.expectedHandshake ∧ t.port.rspObserved = s.buf.capBuf)

theorem validated_validateResponse (s : State) : Validated s (validateResponse s) := by
  refine ⟨fun heq => ?_, fun hne => ?_⟩
  · rw [validateResponse_of_eq heq]
    exact succeed_responded .ok 0 s
  · rw [validateResponse_of_ne hne]
    exact ⟨raise_responded _ s, raise_mismatch_rspExpected .., raise_mismatch_rspObserved ..⟩

theorem Responded.rspCode_eq {code : BitVec 4} {stage : BitVec 3} {info : Byte} {t : State}
    (h : Responded code stage info t) : t.port.rspCode = code := by
  obtain ⟨_, _, hcode, _⟩ := h
  exact hcode

theorem Validated.ended {s t : State} (h : Validated s t) : t.port.busy = false ∧ t.port.rspValid = true := by
  by_cases heq : s.buf.capBuf = s.tx.expectedHandshake
  · obtain ⟨hbusy, hvalid, _⟩ := h.1 heq
    exact ⟨hbusy, hvalid⟩
  · obtain ⟨⟨hbusy, hvalid, _⟩, _⟩ := h.2 heq
    exact ⟨hbusy, hvalid⟩

/-- Two states that answer with the same response. -/
theorem Responded.same {code : BitVec 4} {stage : BitVec 3} {info : Byte} {t u : State}
    (ht : Responded code stage info t) (hu : Responded code stage info u) :
    t.inFlight = u.inFlight ∧ t.port.busy = u.port.busy ∧ t.port.rspValid = u.port.rspValid ∧
      t.port.rspCode = u.port.rspCode ∧ t.port.rspStage = u.port.rspStage ∧ t.port.rspInfo = u.port.rspInfo := by
  obtain ⟨hb, hv, hc, hs, hi, hf⟩ := ht
  obtain ⟨hb', hv', hc', hs', hi', hf'⟩ := hu
  exact ⟨hf.trans hf'.symm, hb.trans hb'.symm, hv.trans hv'.symm, hc.trans hc'.symm, hs.trans hs'.symm,
    hi.trans hi'.symm⟩

/-- The comparison of one state gives one response, with the two words where it is a mismatch (R91). -/
theorem Validated.same {s t u : State} (ht : Validated s t) (hu : Validated s u) :
    t.inFlight = u.inFlight ∧ t.port.busy = u.port.busy ∧ t.port.rspValid = u.port.rspValid ∧
      t.port.rspCode = u.port.rspCode ∧ t.port.rspStage = u.port.rspStage ∧ t.port.rspInfo = u.port.rspInfo ∧
      (t.port.rspCode = 4 →
        t.port.rspExpected = u.port.rspExpected ∧ t.port.rspObserved = u.port.rspObserved) := by
  by_cases heq : s.buf.capBuf = s.tx.expectedHandshake
  · obtain ⟨hf, hb, hv, hc, hs, hi⟩ := (ht.1 heq).same (hu.1 heq)
    have hok : t.port.rspCode ≠ 4 := by rw [(ht.1 heq).rspCode_eq]; decide
    exact ⟨hf, hb, hv, hc, hs, hi, fun h => absurd h hok⟩
  · obtain ⟨hresp, hexp, hobs⟩ := ht.2 heq
    obtain ⟨hresp', hexp', hobs'⟩ := hu.2 heq
    obtain ⟨hf, hb, hv, hc, hs, hi⟩ := hresp.same hresp'
    exact ⟨hf, hb, hv, hc, hs, hi, fun _ => ⟨hexp.trans hexp'.symm, hobs.trans hobs'.symm⟩⟩

/-! ### States that differ in the response registers -/

/-- The state with another port, another operation in progress and another count of free values. -/
def State.withResponse (q : HostPort) (f : InFlight) (n : Nat) (s : State) : State :=
  { s with port := q, inFlight := f, freeCount := n }

theorem onlyResponseDiffers_iff {s t : State} :
    OnlyResponseDiffers s t ↔ ∃ q f n, t = s.withResponse q f n := by
  constructor
  · obtain ⟨_, _, _, _, _, q, _, _, f, _, _, n⟩ := t
    rintro ⟨rfl, rfl, rfl, rfl, rfl, rfl, rfl, rfl, rfl⟩
    exact ⟨q, f, n, rfl⟩
  · rintro ⟨q, f, n, rfl⟩
    exact ⟨rfl, rfl, rfl, rfl, rfl, rfl, rfl, rfl, rfl⟩

/-- Any response over states that differ in the response registers leaves them so. -/
theorem OnlyResponseDiffers.writeResponse {r w : State} (h : OnlyResponseDiffers r w) (c c' : BitVec 4)
    (st st' : BitVec 3) (i i' : Byte) (p p' : Option (Word32 × Word32)) :
    OnlyResponseDiffers (writeResponse c st i p r) (writeResponse c' st' i' p' w) := h

theorem OnlyResponseDiffers.haltAll {r w : State} (h : OnlyResponseDiffers r w) :
    OnlyResponseDiffers (haltAll r) (haltAll w) := by
  obtain ⟨q, f, n, rfl⟩ := onlyResponseDiffers_iff.1 h
  exact ⟨rfl, rfl, rfl, rfl, rfl, rfl, rfl, rfl, rfl⟩

theorem OnlyResponseDiffers.startTrigger {r w : State} (h : OnlyResponseDiffers r w) :
    OnlyResponseDiffers (startTrigger r) (startTrigger w) := by
  obtain ⟨q, f, n, rfl⟩ := onlyResponseDiffers_iff.1 h
  exact ⟨rfl, rfl, rfl, rfl, rfl, rfl, rfl, rfl, rfl⟩

theorem OnlyResponseDiffers.atInstant {r w : State} (h : OnlyResponseDiffers r w) (e : Instant) :
    OnlyResponseDiffers { r with env := e } { w with env := e } := by
  obtain ⟨hcfg, hsession, htx, hbuf, hctl, hpins, howner, _, hinputs⟩ := h
  exact ⟨hcfg, hsession, htx, hbuf, hctl, hpins, howner, rfl, hinputs⟩

theorem OnlyResponseDiffers.listing {r w : State} (h : OnlyResponseDiffers r w) (es : List Instant) :
    OnlyResponseDiffers { r with inputs := es } { w with inputs := es } := by
  obtain ⟨hcfg, hsession, htx, hbuf, hctl, hpins, howner, henv, _⟩ := h
  exact ⟨hcfg, hsession, htx, hbuf, hctl, hpins, howner, henv, rfl⟩

theorem OnlyResponseDiffers.trans {r w x : State} (h : OnlyResponseDiffers r w) (h' : OnlyResponseDiffers w x) :
    OnlyResponseDiffers r x := by
  obtain ⟨_, _, _, rfl⟩ := onlyResponseDiffers_iff.1 h
  exact h'

/-- The engine and a halt request do not read the response registers. -/
theorem events_withResponse (q : HostPort) (f : InFlight) (n : Nat) (s : State) :
    events (s.withResponse q f n) = andThen (events s) fun t => .next (t.withResponse q f n) := by
  have hengine (b : Bool) : engineStep b (s.withResponse q f n) =
      andThen (engineStep b s) fun t => .next (t.withResponse q f n) := by
    unfold engineStep
    simp only [apply_dite (andThen · fun t => .next (t.withResponse q f n))]
    rfl
  have hclock : clockEvent (s.withResponse q f n) =
      andThen (clockEvent s) fun t => .next (t.withResponse q f n) := by
    unfold clockEvent
    rw [apply_ite (andThen · fun t => .next (t.withResponse q f n)), ← hengine]
    rfl
  have hhalt (t : State) : haltEvent (t.withResponse q f n) = (haltEvent t).withResponse q f n := by
    unfold haltEvent
    rw [apply_ite (State.withResponse q f n)]
    rfl
  unfold events
  rw [hclock]
  cases clockEvent s with
  | next t => exact congrArg _ (hhalt t)
  | fault _ => rfl
  | refused _ => rfl

/-! ### The two runs side by side -/

/-- `w` is where the write ends whose `RUN` ended in `r`: with the timeout of that `RUN`, or with the comparison. -/
def EndsAsWrite (r w : State) : Prop :=
  OnlyResponseDiffers r w ∧
    ((r.port.rspCode = 5 ∧ Responded 5 4 0 w) ∨ (r.port.rspCode = 0 ∧ Validated r w))

/-- `w` goes through the write whose `RUN`, started at `t0`, goes through `r`. A `RUN` that has ended without a
response was ended by a hardware reset. -/
inductive Follows (t0 : Nat) (r w : State) : Prop
  | waiting : OnlyResponseDiffers r w → r.port.busy = true → w.port.busy = true →
      r.inFlight = .run t0 → w.inFlight = .writeRun t0 → Follows t0 r w
  | ended : r.port.busy = false → w.port.busy = false → (r.port.rspValid = true → EndsAsWrite r w) →
      Follows t0 r w

variable {t0 : Nat} {r w : State}

theorem follows_of_endsAsWrite (hb : r.port.busy = false) (h : EndsAsWrite r w) : Follows t0 r w := by
  refine .ended hb ?_ fun _ => h
  obtain ⟨_, ⟨_, hbusy, _⟩ | ⟨_, hval⟩⟩ := h
  · exact hbusy
  · exact hval.ended.1

/-- One look at the two waits: neither ends, or both time out, or the write compares where `RUN` answers. -/
theorem follows_waitRun (h : OnlyResponseDiffers r w) (hr : r.port.busy = true) (hw : w.port.busy = true)
    (hfr : r.inFlight = .run t0) (hfw : w.inFlight = .writeRun t0) :
    Follows t0 (waitRun .run t0 r) (waitRun .writeRegister t0 w) := by
  have hwait : Follows t0 r w := .waiting h hr hw hfr hfw
  have htimeout : Follows t0 (raise .transactionTimeout (haltAll r)) (raise .transactionTimeout (haltAll w)) :=
    follows_of_endsAsWrite rfl ⟨h.haltAll.writeResponse .., .inl ⟨rfl, raise_responded _ _⟩⟩
  have hfinish : Follows t0 (finishRun .run r) (finishRun .writeRegister w) := by
    have hval : Validated (haltAll r) (validateResponse (haltAll w)) := by
      obtain ⟨q, f, n, rfl⟩ := onlyResponseDiffers_iff.1 h
      exact validated_validateResponse (haltAll (r.withResponse q f n))
    exact follows_of_endsAsWrite rfl
      ⟨h.haltAll.trans (validateResponse_onlyResponseDiffers (haltAll w)), .inr ⟨rfl, hval⟩⟩
  obtain ⟨q, f, n, rfl⟩ := onlyResponseDiffers_iff.1 h
  unfold waitRun
  by_cases hrun : r.ctl.running = true
  · rw [if_pos hrun, if_pos (show (r.withResponse q f n).ctl.running = true from hrun)]
    have hcfg : (r.withResponse q f n).cfg = r.cfg := rfl
    rw [hcfg]
    cases r.cfg.runTimeout with
    | none => exact hwait
    | some t =>
      by_cases hlate : t ≤ elapsedSince (now r) t0
      · simpa only [if_pos hlate, if_pos (show t ≤ elapsedSince (now (r.withResponse q f n)) t0 from hlate)]
          using htimeout
      · simpa only [if_neg hlate, if_neg (show ¬ t ≤ elapsedSince (now (r.withResponse q f n)) t0 from hlate)]
          using hwait
  · rw [if_neg hrun, if_neg (show ¬ (r.withResponse q f n).ctl.running = true from hrun)]
    exact hfinish

/-- The look that is due before an instant. -/
theorem Follows.after_lookBefore (h : Follows t0 r w) (e : Instant) : Follows t0 (lookBefore e r) (lookBefore e w) := by
  cases h with
  | ended hr hw hend =>
    simpa only [lookBefore, lookDue_idle hr, lookDue_idle hw, Bool.false_eq_true, if_false] using
      Follows.ended hr hw hend
  | waiting h hr hw hfr hfw =>
    obtain ⟨hcfg, _, _, _, _, _, _, henv, _⟩ := id h
    have hdue : lookDue e w = lookDue e r := by simp only [lookDue, hr, hw, hfr, hfw, hcfg]
    have htime : lookTime w = lookTime r := by simp only [lookTime, hfr, hfw, hcfg]
    unfold lookBefore
    rw [hdue]
    split
    · rw [ownLook_eq, ownLook_eq, htime, henv,
        advance_of_run (o := .run) (t0 := t0) (s := { r with env := held (lookTime r) r.env }) hfr,
        advance_of_run (o := .writeRegister) (t0 := t0) (s := { w with env := held (lookTime r) r.env }) hfw]
      exact follows_waitRun (h.atInstant _) hr hw hfr hfw
    · exact .waiting h hr hw hfr hfw

/-- One instant of the two operations. -/
theorem follows_tick (h : OnlyResponseDiffers r w) (hr : r.port.busy = true) (hw : w.port.busy = true)
    (hfr : r.inFlight = .run t0) (hfw : w.inFlight = .writeRun t0) {e : Instant} {r' : State}
    (htick : tick e r = .next r') : ∃ w', tick e w = .next w' ∧ Follows t0 r' w' := by
  rcases tick_cases htick with ⟨he, rfl⟩ | ⟨he, u, hev, rfl⟩
  · refine ⟨hardwareReset { w with env := e }, if_neg (by simp [he]), .ended rfl rfl ?_⟩
    exact fun hvalid => absurd hvalid Bool.false_ne_true
  · obtain ⟨q, f, n, hwe⟩ := onlyResponseDiffers_iff.1 (h.atInstant e)
    have hport : q = w.port := (congrArg State.port hwe).symm
    have hflight : f = w.inFlight := (congrArg State.inFlight hwe).symm
    have hevw : events { w with env := e } = .next (u.withResponse q f n) := by
      rw [hwe, events_withResponse, hev, andThen_next]
    obtain ⟨_, hfu, _, hpu, _⟩ := events_frame hev
    have hfru : u.inFlight = .run t0 := hfu.trans hfr
    have hfwu : (u.withResponse q f n).inFlight = .writeRun t0 := hflight.trans hfw
    refine ⟨_, tick_of_run (o := .writeRegister) he hevw hfwu, ?_⟩
    rw [advance_of_run (o := .run) hfru]
    exact follows_waitRun (onlyResponseDiffers_iff.2 ⟨q, f, n, rfl⟩) ((congrArg HostPort.busy hpu).trans hr)
      ((congrArg HostPort.busy hport).trans hw) hfru hfwu

/-- The two operations over a list of instants: where `RUN` reaches a state, the write reaches one that follows it. -/
theorem Follows.after_drain (h : Follows t0 r w) {es : List Instant} {r' : State} (hd : drain es r = .next r') :
    ∃ w', drain es w = .next w' ∧ Follows t0 r' w' := by
  have hidle {r w : State} (hr : r.port.busy = false) (hw : w.port.busy = false)
      (hend : r.port.rspValid = true → EndsAsWrite r w) (es : List Instant) :
      Follows t0 { r with inputs := es } { w with inputs := es } :=
    .ended hr hw fun hvalid => ⟨(hend hvalid).1.listing es, (hend hvalid).2⟩
  induction es generalizing r w with
  | nil =>
    cases hd
    refine ⟨_, rfl, ?_⟩
    cases h with
    | waiting h hr hw hfr hfw => exact .waiting (h.listing []) hr hw hfr hfw
    | ended hr hw hend => exact hidle hr hw hend []
  | cons e es ih =>
    have hcatch : Follows t0 (catchUp e r) (catchUp e w) := ((h.after_lookBefore e).after_lookBefore e).after_lookBefore e
    unfold drain at hd ⊢
    cases hcatch with
    | waiting h hr hw hfr hfw =>
      rw [if_pos hr, andThen_eq_next] at hd
      obtain ⟨r1, htick, hrest⟩ := hd
      obtain ⟨w1, htickw, hfollow⟩ := follows_tick h hr hw hfr hfw htick
      rw [if_pos hw, htickw]
      exact ih hfollow hrest
    | ended hr hw hend =>
      rw [if_neg (by simp [hr])] at hd
      cases hd
      exact ⟨_, if_neg (by simp [hw]), hidle hr hw hend _⟩

/-- A run started by the two operations in states that differ in the response registers. -/
theorem follows_beginRun (h : OnlyResponseDiffers r w) (hr : r.port.busy = true) (hw : w.port.busy = true) :
    Follows (now r) (beginRun .run r) (beginRun .writeRegister w) := by
  have hnow : now w = now r := by
    obtain ⟨q, f, n, rfl⟩ := onlyResponseDiffers_iff.1 h
    rfl
  unfold beginRun
  rw [hnow]
  exact follows_waitRun h.startTrigger hr hw rfl rfl

/-! ### The five steps -/

/-- An admitted `WRITE_REGISTER` that passes the checks, over the reference table, is a run of the prepared state. -/
theorem exec_writeRegister_of_checked {a v : Byte} {s : State} (ha : addressAdmitted a = true)
    (hv : configureViolation s = none) (hrun : referenceRunnable (prepareWrite a v (accept s)) = true) :
    exec (.writeRegister a v) s = drain s.inputs (beginRun .writeRegister (prepareWrite a v (accept s))) := by
  have hexec : exec (.writeRegister a v) s = resume (beginRun .writeRegister (prepareWrite a v (accept s))) := by
    simp [exec, execWriteRegister, ha, hv, hrun]
  obtain ⟨_, _, hinputs, _⟩ := beginRun_frame .writeRegister (prepareWrite a v (accept s))
  rw [hexec, resume, hinputs]
  rfl

/-- `CONFIGURE`, `ENCODE` and `EXPAND`, issued one after the other, prepare the state that the write prepares, up to
the response registers. -/
theorem prepareWrite_of_steps {a v : Byte} {s s1 s2 s3 : State} (h1 : exec .configure s = .next s1)
    (hcode : s1.port.rspCode = 0) (h2 : exec (.encode a v) s1 = .next s2)
    (h3 : exec (.expand s2.tx.driveMask) s2 = .next s3) :
    addressAdmitted a = true ∧ configureViolation s = none ∧
      OnlyResponseDiffers s3 (prepareWrite a v (accept s)) := by
  cases exec_cases h1 with
  | notConfigured c k _ hviolation => exact absurd hcode (by decide : (2#4) ≠ 0)
  | configure _ hnone =>
  cases exec_cases h2 with
  | encode _ _ _ hadmitted =>
  cases exec_cases h3 with
  | expand _ _ => exact ⟨hadmitted, hnone, rfl, rfl, rfl, rfl, rfl, rfl, rfl, rfl, rfl⟩

/-- Where the first four steps, issued one after the other, end with a response of `RUN` other than
`IllegalOperation`, the write ends as that `RUN` does. -/
theorem exec_writeRegister_of_steps {a v : Byte} {s s1 s2 s3 s4 : State} (h1 : exec .configure s = .next s1)
    (hcode : s1.port.rspCode = 0) (h2 : exec (.encode a v) s1 = .next s2)
    (h3 : exec (.expand s2.tx.driveMask) s2 = .next s3) (h4 : exec .run s3 = .next s4)
    (hbusy : s4.port.busy = false) (hvalid : s4.port.rspValid = true) (hlegal : s4.port.rspCode ≠ 6) :
    ∃ t, exec (.writeRegister a v) s = .next t ∧ EndsAsWrite s4 t := by
  obtain ⟨hadmitted, hnone, hsame⟩ := prepareWrite_of_steps h1 hcode h2 h3
  cases exec_cases h4 with
  | illegalRun _ _ => exact absurd rfl hlegal
  | run _ _ _ hrun hdrain =>
    have hrunw : referenceRunnable (prepareWrite a v (accept s)) = true := by
      obtain ⟨q, f, n, hw⟩ := onlyResponseDiffers_iff.1 hsame
      rw [hw]
      exact hrun
    have hinputs : s.inputs = s3.inputs := by
      obtain ⟨_, _, _, _, _, _, _, _, hinputs⟩ := hsame
      exact hinputs
    have hstart : Follows (now s3) (beginRun .run (accept s3))
        (beginRun .writeRegister (prepareWrite a v (accept s))) :=
      follows_beginRun (r := accept s3) hsame rfl rfl
    obtain ⟨t, hwrite, hfollow⟩ := hstart.after_drain hdrain
    rw [← hinputs] at hwrite
    refine ⟨t, (exec_writeRegister_of_checked hadmitted hnone hrunw).trans hwrite, ?_⟩
    cases hfollow with
    | waiting _ hstill => exact absurd (hstill.symm.trans hbusy) (by decide)
    | ended _ _ hend => exact hend hvalid

/-- Settles O43: the write ends in the comparison that `VALIDATE` makes after the four steps. -/
theorem writeRegisterIsItsFiveSteps : Obligations.WriteRegisterIsItsFiveSteps := by
  unfold Obligations.WriteRegisterIsItsFiveSteps
  intro a v s s1 s2 s3 s4 s5 h1 hcode h2 h3 h4 hbusy hvalid hok h5
  have hlegal : s4.port.rspCode ≠ 6 := by rw [hok]; decide
  obtain ⟨t, hwrite, hdiff, hend⟩ := exec_writeRegister_of_steps h1 hcode h2 h3 h4 hbusy hvalid hlegal
  cases h5
  have hval : Validated s4 t := by
    rcases hend with ⟨htimeout, _⟩ | ⟨_, hval⟩
    · exact absurd (hok.symm.trans htimeout) (by decide)
    · exact hval
  obtain ⟨hf, hb, hv, hc, hs, hi, hwords⟩ := hval.same (validated_validateResponse (accept s4))
  obtain ⟨_, hsession, htx, hbuf, hctl, hpins, howner, henv, hinputs⟩ := hdiff
  obtain ⟨_, hsession', htx', hbuf', hctl', hpins', howner', henv', hinputs'⟩ :=
    validateResponse_onlyResponseDiffers (accept s4)
  exact ⟨t, hwrite, hsession.trans hsession'.symm, htx.trans htx'.symm, hbuf.trans hbuf'.symm,
    hctl.trans hctl'.symm, hpins.trans hpins'.symm, howner.trans howner'.symm, henv.trans henv'.symm,
    hinputs.trans hinputs'.symm, hf, hb, hv, hc, hs, hi, hwords⟩

/-- Settles O44: a timeout of the `RUN` is the timeout of the write. -/
theorem writeRegisterFailsAsItsRunDoes : Obligations.WriteRegisterFailsAsItsRunDoes := by
  unfold Obligations.WriteRegisterFailsAsItsRunDoes
  intro a v s s1 s2 s3 s4 h1 hcode h2 h3 h4 hbusy hvalid htimeout
  have hlegal : s4.port.rspCode ≠ 6 := by rw [htimeout]; decide
  obtain ⟨t, hwrite, hdiff, hend⟩ := exec_writeRegister_of_steps h1 hcode h2 h3 h4 hbusy hvalid hlegal
  have hresponse : Responded 5 4 0 t := by
    rcases hend with ⟨_, hresponse⟩ | ⟨hok, _⟩
    · exact hresponse
    · exact absurd (htimeout.symm.trans hok) (by decide)
  obtain ⟨_, hsession, htx, hbuf, hctl, hpins, howner, henv, hinputs⟩ := hdiff
  exact ⟨t, hwrite, hresponse, hsession, htx, hbuf, hctl, hpins, howner, henv, hinputs⟩

end Sys2Proof.Machine
end

section
/-! SUPPORT. A run over a list of instants (42_bus_controller.md R148 to R162), of `RUN` or of `WRITE_REGISTER`: after
the instants before the last clock cycle it is still in progress, and in the instant of the last one it completes. -/

namespace Sys2Proof.Machine

/-! ### Samples -/

@[simp] theorem nxtSamples_length (p : Params) (es : List Instant) : (nxtSamples p es).length = clockCycles es := by
  rw [nxtSamples, List.length_map, clockCycles, List.countP_eq_length_filter]

theorem nxtSamples_of_clock (p : Params) (es : List Instant) {e : Instant} (h : e.phyClk = true) :
    nxtSamples p (es ++ [e]) = nxtSamples p es ++ [logicalOf p.nxtAsserted e.nxtPin] := by
  simp [nxtSamples, h]

theorem nxtSamples_of_no_clock (p : Params) (es : List Instant) {e : Instant} (h : e.phyClk = false) :
    nxtSamples p (es ++ [e]) = nxtSamples p es := by
  simp [nxtSamples, h]

theorem clockCycles_of_clock (es : List Instant) {e : Instant} (h : e.phyClk = true) :
    clockCycles (es ++ [e]) = clockCycles es + 1 := by
  simp [clockCycles, h]

theorem clockCycles_of_no_clock (es : List Instant) {e : Instant} (h : e.phyClk = false) :
    clockCycles (es ++ [e]) = clockCycles es := by
  simp [clockCycles, h]

theorem holdsSamples_nil : holdsSamples 0 [] := by
  intro i _
  simp

/-- Writing the bit of the next cycle adds its sample (R151). -/
theorem holdsSamples_writeBit {w : Word32} {ns : List Bool} (h : holdsSamples w ns) (b : Bool) :
    holdsSamples (writeBit w ns.length b) (ns ++ [b]) := by
  intro i hi
  rw [writeBit_getLsbD _ _ _ _ hi, h i hi, List.getElem?_append]
  rcases Nat.lt_trichotomy i ns.length with hlt | rfl | hgt
  · rw [if_neg (Nat.ne_of_lt hlt), if_pos hlt]
  · simp
  · simp [Nat.ne_of_gt hgt, Nat.lt_asymm hgt, show i - ns.length ≠ 0 by omega]

/-- A word holds one list of samples of each length, and a list stands in one word. -/
theorem holdsSamples_unique {w w' : Word32} {ns ns' : List Bool} (h : holdsSamples w ns) (h' : holdsSamples w' ns')
    (hlen : ns.length = ns'.length) (h32 : ns.length ≤ 32) : w = w' ↔ ns = ns' := by
  constructor
  · rintro rfl
    refine List.ext_getElem hlen fun i hi hi' => ?_
    have hbit : (ns[i]?).getD false = (ns'[i]?).getD false := (h i (by omega)).symm.trans (h' i (by omega))
    simpa [hi, hi'] using hbit
  · rintro rfl
    exact BitVec.eq_of_getLsbD_eq fun i hi => (h i hi).trans (h' i hi).symm

/-! ### A run in progress, and its end -/

/-- What a run started in `s` keeps through the instants `es`, and the samples it has captured (R73, R151, R160). -/
structure RunFrame (s : State) (es : List Instant) (t : State) : Prop where
  cfg : t.cfg = s.cfg
  session : t.session = s.session
  tx : t.tx = s.tx
  owner : t.owner = s.owner
  port : t.port = s.port
  resetOut : t.pins.resetOut = s.pins.resetOut
  stpLevel : t.pins.stpLevel = s.pins.stpLevel
  dataBuf : t.buf.dataBuf = s.buf.dataBuf
  dirBuf : t.buf.dirBuf = s.buf.dirBuf
  stpBuf : t.buf.stpBuf = s.buf.stpBuf
  capture : holdsSamples t.buf.capBuf (nxtSamples s.cfg es)

/-- The run of `o` started in `s` is in progress after the instants `es` (R154). -/
structure InRun (o : RunOf) (s : State) (es : List Instant) (t : State) : Prop where
  frame : RunFrame s es t
  inFlight : t.inFlight = o.wait (now s)
  ctl : t.ctl = { s.ctl with
    running := true, cyc := BitVec.ofNat 4 (clockCycles es), runDone := false, runHalted := false }

/-- The channels have shifted every cycle of the run of `o` started in `s` (R152, R162). -/
structure RunDone (o : RunOf) (s : State) (es : List Instant) (t : State) : Prop where
  frame : RunFrame s es t
  inFlight : t.inFlight = o.wait (now s)
  ctl : t.ctl = { s.ctl with
    running := false, cyc := BitVec.ofNat 4 (clockCycles es), runDone := true, runHalted := false }
  dataOe0 : t.pins.dataOe0 = false
  dataOe1 : t.pins.dataOe1 = false

variable {o : RunOf} {s t : State} {es : List Instant}

/-- What a run keeps does not depend on the inputs of the present instant. -/
theorem InRun.atInstant (h : InRun o s es t) (e : Instant) : InRun o s es { t with env := e } := by
  obtain ⟨⟨hcfg, hsession, htx, howner, hport, hreset, hstp, hdata, hdir, hstop, hcap⟩, hflight, hctl⟩ := h
  exact ⟨⟨hcfg, hsession, htx, howner, hport, hreset, hstp, hdata, hdir, hstop, hcap⟩, hflight, hctl⟩

/-- After the trigger and a first look that finds no timeout, the run is in progress (R147). -/
theorem inRun_beginRun (o : RunOf) {s : State} (htime : ∀ n, s.cfg.runTimeout = some n → 0 < n) :
    InRun o s [] (beginRun o s) := by
  have hwaits : beginRun o s = waitFor (o.wait (now s)) (startTrigger s) :=
    waitRun_waits rfl fun n hn => (Nat.sub_self (now s)).symm ▸ htime n hn
  rw [hwaits]
  exact ⟨⟨rfl, rfl, rfl, rfl, rfl, rfl, rfl, rfl, rfl, rfl, holdsSamples_nil⟩, rfl, rfl⟩

/-- The index of the cycle is the count of the cycles so far, where that is within the buffers (R33). -/
theorem InRun.cyc_toNat (h : InRun o s es t) (hlt : clockCycles es < 16) : t.ctl.cyc.toNat = clockCycles es := by
  rw [h.ctl]
  exact Nat.mod_eq_of_lt hlt

/-! ### The engine's part of an instant -/

/-- The capture of the cycle of the present instant. -/
theorem RunFrame.after_captureCycle (h : RunFrame s es t) (hclk : t.env.phyClk = true) :
    RunFrame s (es ++ [t.env]) (captureCycle (clockCycles es) (nxtIn t) t) where
  cfg := h.cfg
  session := h.session
  tx := h.tx
  owner := h.owner
  port := h.port
  resetOut := h.resetOut
  stpLevel := h.stpLevel
  dataBuf := h.dataBuf
  dirBuf := h.dirBuf
  stpBuf := h.stpBuf
  capture := by
    have hnxt : nxtIn t = logicalOf s.cfg.nxtAsserted t.env.nxtPin := by rw [nxtIn, h.cfg]
    rw [captureCycle_buf, hnxt, nxtSamples_of_clock _ _ hclk, ← nxtSamples_length s.cfg es]
    exact holdsSamples_writeBit h.capture _

/-- Presenting a cycle and releasing the data pins touch nothing that a run keeps. -/
theorem RunFrame.after_presentCycle (h : RunFrame s es t) (k : Fin 8) : RunFrame s es (presentCycle k t) := by
  obtain ⟨hcfg, hsession, htx, howner, hport, hreset, hstp, hdata, hdir, hstop, hcap⟩ := h
  exact ⟨hcfg, hsession, htx, howner, hport, hreset, hstp, hdata, hdir, hstop, hcap⟩

theorem RunFrame.after_autoHalt (h : RunFrame s es t) : RunFrame s es (autoHalt t) := by
  obtain ⟨hcfg, hsession, htx, howner, hport, hreset, hstp, hdata, hdir, hstop, hcap⟩ := h
  exact ⟨hcfg, hsession, htx, howner, hport, hreset, hstp, hdata, hdir, hstop, hcap⟩

/-- With no clock cycle in the instant the run waits (R154). -/
theorem InRun.of_no_clock (h : InRun o s es t) {e : Instant} (hclk : e.phyClk = false) :
    InRun o s (es ++ [e]) t := by
  obtain ⟨⟨hcfg, hsession, htx, howner, hport, hreset, hstp, hdata, hdir, hstop, hcap⟩, hflight, hctl⟩ := h
  rw [← clockCycles_of_no_clock es hclk] at hctl
  rw [← nxtSamples_of_no_clock s.cfg es hclk] at hcap
  exact ⟨⟨hcfg, hsession, htx, howner, hport, hreset, hstp, hdata, hdir, hstop, hcap⟩, hflight, hctl⟩

theorem clockEvent_of_clock (hclk : t.env.phyClk = true) (hrun : t.ctl.running = true) :
    clockEvent t = engineStep (nxtIn t) t := by
  simp [clockEvent, hclk, hrun]

/-- Before the last clock cycle the engine keeps the run in progress (R148, R151). -/
theorem InRun.clockEvent_inner (h : InRun o s es t) (h8 : s.cfg.cycleLimit ≤ 8)
    (hcyc : clockCycles (es ++ [t.env]) < s.cfg.cycleLimit) :
    ∃ u, clockEvent t = .next u ∧ u.env = t.env ∧ InRun o s (es ++ [t.env]) u := by
  cases hclk : t.env.phyClk with
  | false => exact ⟨t, if_neg (by simp [hclk]), rfl, h.of_no_clock hclk⟩
  | true =>
    have hrun : t.ctl.running = true := by rw [h.ctl]
    have hnext : clockCycles es + 1 < s.cfg.cycleLimit := clockCycles_of_clock es hclk ▸ hcyc
    have hidx : t.ctl.cyc.toNat = clockCycles es := h.cyc_toNat (by omega)
    have hstep := engineStep_inner (n := nxtIn t) ⟨clockCycles es + 1, by omega⟩ (h.frame.cfg ▸ h8)
      (congrArg (· + 1) hidx.symm) (by rw [hidx, h.frame.cfg]; exact hnext)
    rw [hidx] at hstep
    refine ⟨_, (clockEvent_of_clock hclk hrun).trans hstep, rfl, (h.frame.after_captureCycle hclk).after_presentCycle _,
      h.inFlight, ?_⟩
    rw [presentCycle_ctl, captureCycle_ctl, h.ctl, clockCycles_of_clock es hclk]

/-- At the last clock cycle the engine halts the channels (R152). -/
theorem InRun.clockEvent_last (h : InRun o s es t) (h8 : s.cfg.cycleLimit ≤ 8) (hclk : t.env.phyClk = true)
    (hlast : clockCycles es + 1 = s.cfg.cycleLimit) :
    ∃ u, clockEvent t = .next u ∧ u.env = t.env ∧ RunDone o s (es ++ [t.env]) u := by
  have hrun : t.ctl.running = true := by rw [h.ctl]
  have hidx : t.ctl.cyc.toNat = clockCycles es := h.cyc_toNat (by omega)
  have hstep : engineStep (nxtIn t) t = .next (autoHalt (captureCycle (clockCycles es) (nxtIn t) t)) := by
    rw [← hidx]
    exact engineStep_last (h.frame.cfg ▸ h8) (by rw [hidx, h.frame.cfg]; exact hlast)
  refine ⟨_, (clockEvent_of_clock hclk hrun).trans hstep, rfl, (h.frame.after_captureCycle hclk).after_autoHalt,
    h.inFlight, ?_, rfl, rfl⟩
  rw [autoHalt_ctl, captureCycle_ctl, h.ctl, clockCycles_of_clock es hclk]

/-! ### Instants of a run -/

/-- A quiet instant before the last clock cycle, with no timeout expired, is an instant of the run in progress. -/
theorem InRun.tick_inner (h : InRun o s es t) (h8 : s.cfg.cycleLimit ≤ 8) {e : Instant} (hq : quiet e = true)
    (hcyc : clockCycles (es ++ [e]) < s.cfg.cycleLimit)
    (htime : ∀ n, s.cfg.runTimeout = some n → e.now - now s < n) :
    ∃ u, tick e t = .next u ∧ InRun o s (es ++ [e]) u := by
  simp only [quiet, Bool.and_eq_true, Bool.not_eq_true'] at hq
  obtain ⟨hrst, hhalt⟩ := hq
  obtain ⟨u, hclock, henv, hu⟩ := (h.atInstant e).clockEvent_inner h8 hcyc
  have hev : events { t with env := e } = .next u := by
    rw [events, hclock, andThen_next, haltEvent_of_no_request (henv ▸ hhalt)]
  have hwaits : waitRun o (now s) u = u :=
    waitRun_waits (by rw [hu.ctl]) fun n hn => by
      rw [henv]
      exact htime n (hu.frame.cfg ▸ hn)
  exact ⟨u, (tick_of_run hrst hev hu.inFlight).trans (congrArg _ hwaits), hu⟩

/-- The instant of the last clock cycle ends the wait of the run, a halt request in it coming after the cycle (R152,
R158, R231). -/
theorem InRun.tick_last (h : InRun o s es t) (h8 : s.cfg.cycleLimit ≤ 8) {e : Instant} (hrst : e.rstN = true)
    (hclk : e.phyClk = true) (hlast : clockCycles es + 1 = s.cfg.cycleLimit) :
    ∃ u, tick e t = .next (finishRun o u) ∧ u.env = e ∧ RunDone o s (es ++ [e]) u := by
  obtain ⟨u, hclock, henv, hu⟩ := (h.atInstant e).clockEvent_last h8 hclk hlast
  have hstopped : u.ctl.running = false := by rw [hu.ctl]
  have hev : events { t with env := e } = .next u := by
    rw [events, hclock, andThen_next, haltEvent_of_released hstopped hu.dataOe0 hu.dataOe1]
  have hfinish : waitRun o (now s) u = finishRun o u := if_neg (by simp [hstopped])
  exact ⟨u, (tick_of_run hrst hev hu.inFlight).trans (congrArg _ hfinish), henv, hu⟩

/-- Quiet instants before the last clock cycle, with no timeout expired, leave the run in progress (R154). -/
theorem InRun.drain_inner {xs : List Instant} (h : InRun o s es t) (h8 : s.cfg.cycleLimit ≤ 8) (hb : s.port.busy = true)
    (hq : ∀ x ∈ xs, quiet x = true) (hcyc : clockCycles (es ++ xs) < s.cfg.cycleLimit)
    (htime : noTimeout s.cfg (now s) xs) (rest : List Instant) :
    ∃ u, drain (xs ++ rest) t = drain rest u ∧ InRun o s (es ++ xs) u := by
  induction xs generalizing es t with
  | nil => exact ⟨t, rfl, by rwa [List.append_nil]⟩
  | cons e xs ih =>
    have hassoc : es ++ e :: xs = (es ++ [e]) ++ xs := by simp
    rw [hassoc] at hcyc ⊢
    have hcyc' : clockCycles (es ++ [e]) < s.cfg.cycleLimit :=
      Nat.lt_of_le_of_lt (List.Sublist.countP_le (List.sublist_append_left _ _)) hcyc
    have hearly : ∀ n, s.cfg.runTimeout = some n → e.now - now s < n :=
      fun n hn => (htime n hn).2 e List.mem_cons_self
    obtain ⟨u, htick, hu⟩ := h.tick_inner h8 (hq e List.mem_cons_self) hcyc' hearly
    obtain ⟨w, hrest, hw⟩ := ih hu (fun x hx => hq x (List.mem_cons_of_mem _ hx)) hcyc
      fun n hn => ⟨(htime n hn).1, fun x hx => (htime n hn).2 x (List.mem_cons_of_mem _ hx)⟩
    have hbusy : t.port.busy = true := by rw [h.frame.port]; exact hb
    refine ⟨w, ?_, hw⟩
    rw [List.cons_append, drain_of_run hbusy h.inFlight, htick, andThen_next, hrest]
    intro n hn
    have := hearly n (h.frame.cfg ▸ hn)
    omega

/-- The response that ends a run in the instant of its last clock cycle leaves the instants after it. -/
theorem InRun.drain_last (h : InRun o s es t) (h8 : s.cfg.cycleLimit ≤ 8) (hb : s.port.busy = true) {e : Instant}
    (hrst : e.rstN = true) (hclk : e.phyClk = true) (hlast : clockCycles es + 1 = s.cfg.cycleLimit)
    (htime : byTimeout s.cfg (now s) e) (rest : List Instant) :
    ∃ u, drain (e :: rest) t = .next { finishRun o u with inputs := rest } ∧ u.env = e ∧
      RunDone o s (es ++ [e]) u := by
  obtain ⟨u, htick, henv, hu⟩ := h.tick_last h8 hrst hclk hlast
  have hbusy : t.port.busy = true := by rw [h.frame.port]; exact hb
  have hended : (finishRun o u).port.busy = false := by
    cases o with
    | run => rfl
    | writeRegister => exact (validated_validateResponse (haltAll u)).ended.1
  refine ⟨u, ?_, henv, hu⟩
  rw [drain_of_run hbusy h.inFlight (fun n hn => htime n (h.frame.cfg ▸ hn)), htick, andThen_next,
    drain_idle hended]

end Sys2Proof.Machine
end

section
/-! SUPPORT. The register write as a whole (45_register_write.md R210, R213, R214): the state that steps 1 to 3 prepare
over the reference table, its run, and the frame that the pins carry in it. -/

namespace Sys2Proof.Machine

variable {a v : Byte} {s : State}

/-! ### The prepared state -/

theorem referenceRunnable_prepareWrite (h : ReferencePlatform s.cfg) :
    referenceRunnable (prepareWrite a v s) = true := by
  obtain ⟨hdesc, hlow, hhigh⟩ := h
  simp [referenceRunnable, hdesc, hlow, hhigh]

/-- Over the reference table, with every pin bindable, an admitted write is the run of the prepared state. -/
theorem exec_writeRegister_of_reference (ha : a ≤ 0x3F#8) (href : ReferencePlatform s.cfg) (hp : AllPinsBindable s) :
    exec (.writeRegister a v) s = drain s.inputs (beginRun .writeRegister (prepareWrite a v (accept s))) :=
  exec_writeRegister_of_checked (addressAdmitted_of_le ha) (configureViolation_of_bindable href hp)
    (referenceRunnable_prepareWrite (s := accept s) href)

/-- Step 1 takes the data pins, the stop pin and NXT (R144). -/
theorem prepareWrite_owner_get (href : ReferencePlatform s.cfg) (p : Pin) :
    (prepareWrite a v s).owner.get p =
      if p ∈ Pin.dataPins ++ [.stp, .nxt] then .controller else s.owner.get p := by
  obtain ⟨hdesc, _, _⟩ := href
  rw [prepareWrite_owner, configureCommit_owner, OwnerMap.get_setAll, hdesc]
  exact if_congr (by simp [Params.reference, referenceTable]) rfl rfl

/-! ### A stalled write -/

/-- Settles O45: the run of the prepared state stays in progress, and it has neither written a response nor touched
the transaction registers. -/
theorem stalledWriteStaysInProgress : Obligations.StalledWriteStaysInProgress := by
  unfold Obligations.StalledWriteStaysInProgress
  intro a v s ha href hp hquiet hcyc htime
  obtain ⟨_, _, h8⟩ := id href
  have hnever (xs : List Instant) : noTimeout s.cfg (now s) xs := fun n hn => by simp [htime] at hn
  have hstart : InRun .writeRegister (prepareWrite a v (accept s)) []
      (beginRun .writeRegister (prepareWrite a v (accept s))) :=
    inRun_beginRun _ fun n hn => (hnever [] n hn).1
  obtain ⟨u, hdrain, hu⟩ := hstart.drain_inner h8 rfl hquiet hcyc (hnever s.inputs) []
  have hexec : exec (.writeRegister a v) s = .next { u with inputs := [] } := by
    rw [exec_writeRegister_of_reference ha href hp, ← List.append_nil s.inputs, hdrain, drain_nil]
  obtain ⟨hbusy, hnone⟩ : u.port.busy = true ∧ u.port.rspValid = false := by rw [hu.frame.port]; exact ⟨rfl, rfl⟩
  have hrun : u.ctl.running = true := by rw [hu.ctl]
  have htx : u.tx.commandByte = 0x80#8 ||| a ∧ u.tx.valueByte = v := by rw [hu.frame.tx]; exact ⟨rfl, rfl⟩
  exact ⟨_, hexec, hbusy, hnone, hu.inFlight, hrun, hu.cyc_toNat (by rw [List.nil_append]; omega), htx⟩

/-! ### The frame on the pins -/

/-- With all eight cycles shifted the trace is that of every element of the buffers (R160). -/
theorem pinTrace_of_full {t : State} (h : t.ctl.cyc = 8) : pinTrace t = (List.finRange 8).map (pinCycle t.buf) := by
  have hall : ∀ k ∈ List.finRange 8, decide (k.val < t.ctl.cyc.toNat) = true := by
    intro k _
    rw [h]
    exact decide_eq_true k.isLt
  rw [pinTrace, List.filter_eq_self.2 hall]

/-- The data bytes of the eight cycles (30_encoding.md R83). -/
theorem data_of_frame {b : Buffers} {idle command value : Byte} (h : b.dataBuf = frame idle command value) :
    ((List.finRange 8).map (pinCycle b)).map (·.data) =
      [idle, command, command, command, value, idle, idle, idle] := by
  have hcycle : (fun c : PinCycle => c.data) ∘ pinCycle b = fun k : Fin 8 => (frame idle command value)[k] := by
    funext k
    simp only [Function.comp_apply, pinCycle, h]
  rw [List.map_map, hcycle]
  rfl

/-- The direction code of a write drives cycles 1 to 6, in both sub-phases (41_transaction_encoder.md R126). -/
theorem enables_of_writeMask {b : Buffers} (h : b.dirBuf = 0x00003FFC#32) :
    ((List.finRange 8).map (pinCycle b)).map (fun c => (c.oe0, c.oe1)) =
      [(false, false), (true, true), (true, true), (true, true), (true, true), (true, true), (true, true),
        (false, false)] := by
  have hcycle : (fun c : PinCycle => (c.oe0, c.oe1)) ∘ pinCycle b = fun k : Fin 8 =>
      ((0x00003FFC#32).getLsbD (2 * k.val), (0x00003FFC#32).getLsbD (2 * k.val + 1)) := by
    funext k
    simp only [Function.comp_apply, pinCycle, h]
  rw [List.map_map, hcycle]
  decide

/-- The default stop pattern asserts stop in cycle 5 (R131). -/
theorem stop_of_defaultPattern {b : Buffers} (h : b.stpBuf = 0x00000020#32) :
    ((List.finRange 8).map (pinCycle b)).map (·.stp) =
      [false, false, false, false, false, true, false, false] := by
  have hcycle : (fun c : PinCycle => c.stp) ∘ pinCycle b = fun k : Fin 8 => (0x00000020#32).getLsbD k.val := by
    funext k
    simp only [Function.comp_apply, pinCycle, h]
  rw [List.map_map, hcycle]
  decide

/-! ### A completed write -/

/-- The handshake that a write expects is NXT asserted in cycles 4 and 5 and in no other (R128). -/
theorem holdsSamples_expectedHandshake :
    holdsSamples expectedHandshakeWrite [false, false, false, false, true, true, false, false] := by
  unfold holdsSamples
  decide

/-- A write whose PHY clock supplies the cycles ends in the comparison of its completed run. -/
theorem exec_writeRegister_of_clock {pre rest : List Instant} {e : Instant} (ha : a ≤ 0x3F#8)
    (href : ReferencePlatform s.cfg) (hp : AllPinsBindable s) (hin : s.inputs = pre ++ e :: rest)
    (hquiet : ∀ x ∈ pre, quiet x = true) (hrst : e.rstN = true) (hclk : e.phyClk = true)
    (hcyc : clockCycles pre + 1 = s.cfg.cycleLimit) (hpre : noTimeout s.cfg s.env.now pre)
    (he : byTimeout s.cfg s.env.now e) :
    ∃ u, exec (.writeRegister a v) s = .next { validateResponse u with inputs := rest } ∧ u.env = e ∧
      RunDone .writeRegister (prepareWrite a v (accept s)) (pre ++ [e]) u := by
  obtain ⟨_, _, h8⟩ := id href
  have hstart : InRun .writeRegister (prepareWrite a v (accept s)) []
      (beginRun .writeRegister (prepareWrite a v (accept s))) :=
    inRun_beginRun _ fun n hn => (hpre n hn).1
  obtain ⟨t, hdrain, ht⟩ := hstart.drain_inner h8 rfl hquiet (Nat.lt_of_succ_le (Nat.le_of_eq hcyc)) hpre (e :: rest)
  obtain ⟨u, hlast, henv, hu⟩ := ht.drain_last h8 rfl hrst hclk hcyc he rest
  have hreleased : haltAll u = u := haltAll_of_released (by rw [hu.ctl]) hu.dataOe0 hu.dataOe1
  refine ⟨u, ?_, henv, hu⟩
  rw [exec_writeRegister_of_reference ha href hp, hin, hdrain, hlast, finishRun, hreleased]

/-- The eight samples of a run are the handshake a write expects exactly where the capture is the expected word. -/
theorem capBuf_eq_iff {w : Word32} {ns : List Bool} (h : holdsSamples w ns) (h8 : ns.length = 8) :
    w = expectedHandshakeWrite ↔ ns = [false, false, false, false, true, true, false, false] :=
  holdsSamples_unique h holdsSamples_expectedHandshake h8 (by omega)

/-- The frame of a write on the pins of its completed run (R213). -/
theorem pinTrace_of_write {t : State} (hcyc : t.ctl.cyc = 8)
    (hdata : t.buf.dataBuf = frame s.cfg.idleCode (commandByteOf a) v) (hdir : t.buf.dirBuf = 0x00003FFC#32)
    (hstp : t.buf.stpBuf = s.cfg.stpPatternWrite) :
    (pinTrace t).map (·.data) =
        [s.cfg.idleCode, 0x80#8 ||| a, 0x80#8 ||| a, 0x80#8 ||| a, v,
          s.cfg.idleCode, s.cfg.idleCode, s.cfg.idleCode] ∧
      (pinTrace t).map (fun c => (c.oe0, c.oe1)) =
        [(false, false), (true, true), (true, true), (true, true), (true, true), (true, true), (true, true),
          (false, false)] ∧
      (s.cfg.stpPatternWrite = 0x00000020#32 →
        (pinTrace t).map (·.stp) = [false, false, false, false, false, true, false, false]) := by
  rw [pinTrace_of_full hcyc]
  exact ⟨data_of_frame hdata, enables_of_writeMask hdir, fun h => stop_of_defaultPattern (hstp.trans h)⟩

/-- Settles O40: the completed run has captured the samples, of which only one list is the handshake expected, and all
else is what the prepared state had. -/
theorem writeRegisterResultIsTheSamples : Obligations.WriteRegisterResultIsTheSamples := by
  unfold Obligations.WriteRegisterResultIsTheSamples
  intro a v s pre rest e ha href hlimit hp hin hquiet hrst hclk hcyc hpre he
  obtain ⟨u, hexec, henv, hframed, _, hctl, h0, h1⟩ :=
    exec_writeRegister_of_clock (v := v) ha href hp hin hquiet hrst hclk (hcyc.trans hlimit.symm) hpre he
  obtain ⟨hcfg, hsession, htx, howner, _, hreset, hstpLevel, hdata, hdir, hstp, hcap⟩ := hframed
  obtain ⟨c, st, info, words, hresponse, _, _⟩ := validateResponse_spec u
  have hval : Validated u (validateResponse u) := validated_validateResponse u
  rw [hresponse] at hval hexec
  have hcycles : clockCycles (pre ++ [e]) = 8 := (clockCycles_of_clock pre hclk).trans hcyc
  have hexpected : u.tx.expectedHandshake = expectedHandshakeWrite := by rw [htx]; rfl
  have hsamples : u.buf.capBuf = u.tx.expectedHandshake ↔
      nxtSamples s.cfg (pre ++ [e]) = [false, false, false, false, true, true, false, false] := by
    rw [hexpected]
    exact capBuf_eq_iff hcap ((nxtSamples_length _ _).trans hcycles)
  have hframe : u.buf.dataBuf = frame s.cfg.idleCode (commandByteOf a) v := hdata.trans (by rw [prepareWrite_buf]; rfl)
  have hmask : expand16 driveMaskWrite = 0x00003FFC#32 := by decide
  have hwriteDir : u.buf.dirBuf = 0x00003FFC#32 := hdir.trans (by rw [prepareWrite_buf]; exact hmask)
  have hstop : u.buf.stpBuf = s.cfg.stpPatternWrite := hstp.trans (by rw [prepareWrite_buf]; rfl)
  have hcyc8 : u.ctl.cyc = 8 := by rw [hctl, hcycles]; rfl
  obtain ⟨hbytes, henables, hstops⟩ := pinTrace_of_write (t := u) hcyc8 hframe hwriteDir hstop
  have hconfigured : u.ctl.configured = true := by rw [hctl]; rfl
  have hchannels : ChannelsProgrammed u := by
    rw [ChannelsProgrammed, hctl, hcfg]
    exact ⟨rfl, rfl, rfl⟩
  have howners (p : Pin) : u.owner.get p =
      if p ∈ Pin.dataPins ++ [.stp, .nxt] then .controller else s.owner.get p := by
    rw [howner]
    exact prepareWrite_owner_get (s := accept s) href p
  refine ⟨_, hexec, rfl, rfl, fun heq => hval.1 (hsamples.2 heq), fun hne => ?_, hcap, htx, hwriteDir, hstop, hbytes,
    henables, hstops, hconfigured, hchannels, congrArg Control.running hctl, hcyc8, congrArg Control.runDone hctl,
    congrArg Control.runHalted hctl, howners, h0, h1, hstpLevel, hreset, hsession, hcfg, henv, rfl⟩
  obtain ⟨hfailed, hwanted, hobserved⟩ := hval.2 fun heq => hne (hsamples.1 heq)
  exact ⟨hfailed, hwanted.trans hexpected, hobserved⟩

end Sys2Proof.Machine
end

section
/-! SUPPORT. Which failure is reported, and which test comes first (60_exceptions.md R229, R230). -/

namespace Sys2Proof.Machine

/-- Settles O18: the violation that `CONFIGURE` finds is the first failed check, and raising it at acceptance writes
the response alone. -/
theorem configureReportsTheFirstFailedCheck : Obligations.ConfigureReportsTheFirstFailedCheck := by
  unfold Obligations.ConfigureReportsTheFirstFailedCheck
  intro s held later failed info hlist hheld hfailed
  obtain ⟨c, k, hviolation, rfl⟩ := configureViolation_of_first_failed hlist hheld hfailed
  exact ⟨_, exec_configure_of_violation hviolation, raise_responded _ _, raise_accept_onlyResponseDiffers _ s⟩

/-- An instant of the polling with DIR de-asserted enters `Ready`: its time and the deadline are not read, and a halt
request in it leaves the level of DIR as it is. -/
theorem tick_of_poll_released {e : Instant} {s : State} (hf : s.inFlight = .bringUpPoll)
    (hr : s.ctl.running = false) (he : e.rstN = true) (hdir : dirAt s.cfg e = false) :
    tick e s = .next (enterReady (haltEvent { s with env := e })) := by
  have hseen : dirIn (haltEvent { s with env := e }) = false := by simpa [dirIn_eq_dirAt] using hdir
  rw [tick_of_poll hf hr he, pollDir_of_released hseen]

/-- Settles O37: the poll of the instant enters `Ready`, which answers `Ready`. -/
theorem pollTestsThePinBeforeTheClock : Obligations.PollTestsThePinBeforeTheClock := by
  unfold Obligations.PollTestsThePinBeforeTheClock
  intro e s hf hr he hdir
  exact ⟨_, tick_of_poll_released hf hr he hdir, rfl, rfl, rfl⟩

end Sys2Proof.Machine
end

section
/-! SUPPORT. The bound of `BRING_UP` (44_bringup_fsm.md R195; 70_reset_and_hazards.md R282): the deadlines of the three
waits add up to one time that is fixed at acceptance, and every look comes by the end of its wait. -/

namespace Sys2Proof.Machine

/-! ### The present instant of a look -/

@[simp] theorem pollDir_env (s : State) : (pollDir s).env = s.env := by
  unfold pollDir
  split
  · split <;> rfl
  · rfl

@[simp] theorem waitSettle_env (s : State) : (waitSettle s).env = s.env := by
  unfold waitSettle
  split
  · rw [pollDir_env]; rfl
  · rfl

@[simp] theorem waitHold_env (s : State) : (waitHold s).env = s.env := by
  unfold waitHold
  split
  · rw [waitSettle_env]; rfl
  · rfl

@[simp] theorem waitRun_env (o : RunOf) (t0 : Nat) (s : State) : (waitRun o t0 s).env = s.env := by
  rcases waitRun_cases o t0 s with ⟨_, h⟩ | ⟨_, _, _, _, h, _⟩ <;> rw [h]
  rw [writeResponse_env, haltAll_env]

@[simp] theorem advance_env (s : State) : (advance s).env = s.env := by
  unfold advance
  split
  · rfl
  · exact waitHold_env s
  · exact waitSettle_env s
  · exact pollDir_env s
  · exact waitRun_env .run _ s
  · exact waitRun_env .writeRegister _ s

/-! ### The waits on the way to the clock deadline -/

/-- The wait of `BRING_UP` in progress leads to the clock deadline `d` (R183, R185, R187), and the present instant is no
later than that wait can last: the end of a delay (R183, R185), or `POLL_EPS` after the clock deadline (R188). -/
inductive OnTime (d : Nat) (s : State) : Prop
  | hold : s.inFlight = .bringUpHold → s.session.buDeadline + s.cfg.tSettle + s.cfg.tClockDeadline = d →
      s.env.now ≤ s.session.buDeadline → OnTime d s
  | settle : s.inFlight = .bringUpSettle → s.session.buDeadline + s.cfg.tClockDeadline = d →
      s.env.now ≤ s.session.buDeadline → OnTime d s
  | poll : s.inFlight = .bringUpPoll → s.session.buDeadline = d → s.env.now ≤ d + s.cfg.pollEps → OnTime d s

/-- `BRING_UP` is in progress on the platform `p`, on time for the clock deadline `d`. -/
structure BringingUp (p : Params) (d : Nat) (s : State) : Prop where
  busy : s.port.busy = true
  stopped : s.ctl.running = false
  cfg : s.cfg = p
  onTime : OnTime d s

/-- It has looked at its wait, whose own deadline is still to come. -/
structure Waiting (p : Params) (d : Nat) (s : State) : Prop extends BringingUp p d s where
  early : s.env.now < s.session.buDeadline

/-- It has ended in `Ready` or `Failed` within its bound. -/
structure BroughtUp (p : Params) (d : Nat) (s : State) : Prop where
  notBusy : s.port.busy = false
  ended : s.session.buState = .ready ∨ s.session.buState = .failed
  bound : s.env.now ≤ d + p.pollEps

/-- What every look of `BRING_UP` leaves. -/
def OnCourse (p : Params) (d : Nat) (s : State) : Prop := Waiting p d s ∨ BroughtUp p d s

section Looks

variable {p : Params} {d : Nat} {s : State}

/-- No look of `BRING_UP` comes after its bound. -/
theorem BringingUp.now_le (h : BringingUp p d s) : s.env.now ≤ d + p.pollEps := by
  rw [← h.cfg]
  cases h.onTime <;> omega

/-- While it waits, the clock deadline is still to come. -/
theorem Waiting.now_lt (h : Waiting p d s) : s.env.now < d := by
  have hearly := h.early
  cases h.onTime <;> omega

/-! ### One look -/

/-- A poll ends the operation, or the clock deadline is still to come (R188 to R190). -/
theorem BringingUp.onCourse_pollDir (h : BringingUp p d s) : OnCourse p d (pollDir s) := by
  have hbound := h.now_le
  unfold pollDir
  split
  · split
    case isTrue => exact .inr ⟨rfl, .inr rfl, hbound⟩
    case isFalse hwait => exact .inl ⟨h, Nat.lt_of_not_le hwait⟩
  · exact .inr ⟨rfl, .inl rfl, hbound⟩

/-- The settle delay ends at its deadline, from which the clock deadline is counted (R185 to R187). -/
theorem BringingUp.onCourse_waitSettle (h : BringingUp p d s)
    (hd : s.session.buDeadline + s.cfg.tClockDeadline = d) (hn : s.env.now ≤ s.session.buDeadline) :
    OnCourse p d (waitSettle s) := by
  unfold waitSettle
  split
  case isFalse hwait => exact .inl ⟨h, Nat.lt_of_not_le hwait⟩
  case isTrue hend =>
    have hat : s.env.now = s.session.buDeadline := Nat.le_antisymm hn hend
    have hpoll : OnTime d (enterAwaitingClockStable s) :=
      .poll rfl (by simpa only [enterAwaitingClockStable, now, hat] using hd) (by
        simp only [enterAwaitingClockStable_env, enterAwaitingClockStable_cfg]; omega)
    exact BringingUp.onCourse_pollDir ⟨h.busy, h.stopped, h.cfg, hpoll⟩

/-- The reset hold ends at its deadline, from which the settle delay is counted (R183 to R185). -/
theorem BringingUp.onCourse_waitHold (h : BringingUp p d s)
    (hd : s.session.buDeadline + s.cfg.tSettle + s.cfg.tClockDeadline = d) (hn : s.env.now ≤ s.session.buDeadline) :
    OnCourse p d (waitHold s) := by
  unfold waitHold
  split
  case isFalse hwait => exact .inl ⟨h, Nat.lt_of_not_le hwait⟩
  case isTrue hend =>
    have hat : s.env.now = s.session.buDeadline := Nat.le_antisymm hn hend
    have hsum : (enterResetReleased s).session.buDeadline + s.cfg.tClockDeadline = d := by
      simpa only [enterResetReleased, now, hat] using hd
    have hbegun : (enterResetReleased s).env.now ≤ (enterResetReleased s).session.buDeadline := Nat.le_add_right ..
    exact BringingUp.onCourse_waitSettle ⟨h.busy, h.stopped, h.cfg, .settle rfl hsum hbegun⟩ hsum hbegun

/-- A look that comes on time leaves the operation on course. -/
theorem BringingUp.onCourse_advance (h : BringingUp p d s) : OnCourse p d (advance s) := by
  cases h.onTime with
  | hold hf hd hn => rw [advance_of_hold hf]; exact h.onCourse_waitHold hd hn
  | settle hf hd hn => rw [advance_of_settle hf]; exact h.onCourse_waitSettle hd hn
  | poll hf _ _ => rw [advance_of_poll hf]; exact h.onCourse_pollDir

/-! ### The looks of the block's own, and of an instant -/

/-- A look of the block's own comes on time: at the end of a delay, or within `POLL_EPS` after the clock deadline. -/
theorem BringingUp.onCourse_ownLook (h : BringingUp p d s) : OnCourse p d (ownLook s) := by
  have htime : OnTime d { s with env := held (lookTime s) s.env } := by
    cases h.onTime with
    | hold hf hd _ => exact .hold hf hd (Nat.le_of_eq (by simp [held, lookTime, hf]))
    | settle hf hd _ => exact .settle hf hd (Nat.le_of_eq (by simp [held, lookTime, hf]))
    | poll hf hd _ =>
      refine .poll hf hd ?_
      have hlook : lookTime s = overdueAt s := by simp [lookTime, hf]
      show lookTime s ≤ d + s.cfg.pollEps
      rw [hlook, ← hd]
      exact (overdueAt_bounds s).2
  rw [ownLook_eq]
  exact BringingUp.onCourse_advance ⟨h.busy, h.stopped, h.cfg, htime⟩

/-- After the looks due before an instant the operation is on course. -/
theorem OnCourse.after_catchUp (h : OnCourse p d s) (e : Instant) : OnCourse p d (catchUp e s) := by
  refine catchUp_keeps (OnCourse p d) (fun u hu hb => ?_) h
  rcases hu with hwait | hend
  · exact hwait.onCourse_ownLook
  · exact absurd hb (by simp [hend.notBusy])

/-- An instant before which no look is due comes on time. -/
theorem Waiting.onTime_of_not_due (h : Waiting p d s) {e : Instant} (hdue : lookDue e s = false) :
    OnTime d { s with env := e } := by
  have hearly := h.early
  cases h.onTime with
  | hold hf hd _ => exact .hold hf hd (by simpa [lookDue, h.busy, hf] using hdue)
  | settle hf hd _ => exact .settle hf hd (by simpa [lookDue, h.busy, hf] using hdue)
  | poll hf hd _ =>
    have hlast := (overdueAt_bounds s).2
    have hnot : ¬ (s.inFlight = .bringUpPoll ∧ s.env.now + s.cfg.pollEps < e.now ∧ overdueAt s < e.now) := by
      rw [← pollOverdue_iff, ← lookDue_of_poll h.busy hf, hdue]
      exact Bool.false_ne_true
    have hnear : ¬ (s.env.now + s.cfg.pollEps < e.now ∧ overdueAt s < e.now) := fun hgap => hnot ⟨hf, hgap⟩
    refine .poll hf hd ?_
    show e.now ≤ d + s.cfg.pollEps
    omega

/-- A halt request finds the channels stopped, and does not touch the wait (R158). -/
theorem BringingUp.after_haltEvent (h : BringingUp p d s) : BringingUp p d (haltEvent s) := by
  unfold haltEvent
  split
  · refine ⟨h.busy, rfl, h.cfg, ?_⟩
    cases h.onTime with
    | hold hf hd hn => exact .hold hf hd hn
    | settle hf hd hn => exact .settle hf hd hn
    | poll hf hd hn => exact .poll hf hd hn
  · exact h

/-- Such an instant short of a hardware reset is a look, after its halt request if there is one, and leaves the
operation on course. -/
theorem Waiting.tick_onCourse (h : Waiting p d s) {e : Instant} (hdue : lookDue e s = false) (he : e.rstN = true) :
    ∃ t, tick e s = .next t ∧ t.env = e ∧ OnCourse p d t := by
  have hev : events { s with env := e } = .next (haltEvent { s with env := e }) :=
    events_of_not_running h.stopped
  have hat : BringingUp p d { s with env := e } := ⟨h.busy, h.stopped, h.cfg, h.onTime_of_not_due hdue⟩
  refine ⟨advance (haltEvent { s with env := e }), ?_, ?_, hat.after_haltEvent.onCourse_advance⟩
  · rw [tick, if_pos he, hev, andThen_next]
  · rw [advance_env, haltEvent_env]

end Looks

/-! ### The whole operation -/

section Operation

variable {p : Params} {d : Nat} {s : State} {es : List Instant}

/-- Where the operation has ended, the instants to come are left alone. -/
theorem BroughtUp.drain_of_ended (h : BroughtUp p d s) (es : List Instant) :
    ∃ t, drain es s = .next t ∧ BroughtUp p d t :=
  ⟨_, drain_idle h.notBusy, h.notBusy, h.ended, h.bound⟩

/-- While the operation waits every instant it has come to is before the clock deadline, so one at or past the deadline
ends it, if no earlier instant or look of its own does. -/
theorem Waiting.drain_ends (h : Waiting p d s) (hrst : ∀ x ∈ es, x.rstN = true) (hlate : ∃ y ∈ es, d ≤ y.now) :
    ∃ t, drain es s = .next t ∧ BroughtUp p d t := by
  induction es generalizing s with
  | nil => simp at hlate
  | cons e es ih =>
    rcases OnCourse.after_catchUp (.inl h) e with hwait | hend
    · obtain ⟨u, htick, henv, hu⟩ := hwait.tick_onCourse (catchUp_done e s) (hrst e (List.mem_cons_self ..))
      obtain ⟨_, hdrain⟩ := (drain_cons e es s).resolve_right (by simp [hwait.busy])
      rw [hdrain, htick, andThen_next]
      rcases hu with hwait | hend
      · have hnot : ¬ d ≤ e.now := by
          rw [← henv]
          exact Nat.not_le.2 hwait.now_lt
        have hlate : ∃ y ∈ es, d ≤ y.now := by simpa [hnot] using hlate
        exact ih hwait (fun x hx => hrst x (List.mem_cons_of_mem _ hx)) hlate
      · exact hend.drain_of_ended es
    · obtain ⟨_, hdrain⟩ := (drain_cons e es s).resolve_left (by simp [hend.notBusy])
      exact ⟨_, hdrain, hend.notBusy, hend.ended, hend.bound⟩

/-- Acceptance fixes the clock deadline: the reset hold begins, with the channels halted (R181 to R183). -/
theorem bringingUp_of_accept (s : State) :
    BringingUp s.cfg (s.env.now + s.cfg.tResetHold + s.cfg.tSettle + s.cfg.tClockDeadline)
      (enterResetAsserted (accept s)) :=
  ⟨rfl, rfl, rfl, .hold rfl rfl (Nat.le_add_right ..)⟩

theorem exec_bringUp (s : State) : exec .bringUp s = drain s.inputs (waitHold (enterResetAsserted (accept s))) := by
  rw [exec, execBringUp, resume, waitHold_inputs, enterResetAsserted_inputs, accept_inputs]

end Operation

/-! ### The statement -/

/-- Settles O33: from acceptance on the operation is on course for the clock deadline, and no wait outlasts an instant at
or past it. -/
theorem bringUpEndsWithinItsBound : Obligations.BringUpEndsWithinItsBound := by
  unfold Obligations.BringUpEndsWithinItsBound
  intro s y hrst hy hlate
  obtain ⟨t, ht, hup⟩ : ∃ t, exec .bringUp s = .next t ∧
      BroughtUp s.cfg (s.env.now + s.cfg.tResetHold + s.cfg.tSettle + s.cfg.tClockDeadline) t := by
    have henv : (advance (enterResetAsserted (accept s))).env = s.env := advance_env _
    rw [exec_bringUp, ← advance_of_hold rfl]
    rcases (bringingUp_of_accept s).onCourse_advance with hwait | hend
    · have hnow := hwait.now_lt
      rw [henv] at hnow
      rcases List.mem_cons.1 hy with rfl | hy
      · exact absurd hlate (Nat.not_le.2 hnow)
      · exact hwait.drain_ends hrst ⟨y, hy, hlate⟩
    · exact hend.drain_of_ended _
  exact ⟨t, ht, hup.notBusy, hup.ended, hup.bound⟩

end Sys2Proof.Machine
end

section
/-! SUPPORT. The values the rules state for the state after reset (70_reset_and_hazards.md R261 to R265). -/

namespace Sys2Proof.Machine

/-- After reset the session owns its three pins, and every other pin is free (R37, R263). -/
theorem OwnerMap.get_initial (q : Pin) :
    OwnerMap.initial.get q = if q ∈ [Pin.reset, .dir, .stp] then .session else .free := by
  cases q <;> rfl

/-- Settles O53: `stp_pin` carries the static level, since no channel runs; the owners are those of `get_initial`. -/
theorem resetLeavesTheStatedValues : Obligations.ResetLeavesTheStatedValues :=
  have hstp : stpPin State.reset = State.reset.pins.stpLevel := if_neg Bool.false_ne_true
  ⟨rfl, rfl, rfl, rfl, rfl, rfl, rfl, rfl, rfl, rfl, rfl, rfl, rfl, rfl, hstp, rfl, rfl, OwnerMap.get_initial⟩

end Sys2Proof.Machine
end

section
/-! SUPPORT. The encoder read by the opcode map (30_encoding.md R81, R93, R95, R97): the fields of the canonical word
give the operation back, and the canonical word of a class N operation has cleared operand fields. -/

namespace Sys2Proof

open Laws.OpcodeField (opOf)

/-- The immediate of a word whose `a` and `d` are the two bytes of a mask is the mask (R81). -/
theorem maskField_cmdWord (op : BitVec 4) (m : Mask16) :
    maskField (cmdWord op (m.extractLsb' 8 8) (m.extractLsb' 0 8)) = m := by
  apply BitVec.eq_of_getLsbD_eq
  intro i hi
  rw [maskField_getLsbD, cmdWord_getLsbD]
  by_cases h8 : i < 8
  · simp [hi, h8]
  · simp [hi, h8, show i - 8 < 8 by omega, show 8 + (i - 8) = i by omega]

/-- The two bytes of the immediate are the fields `a` and `d`. -/
theorem maskField_bytes (w : Cmd20) :
    (maskField w).extractLsb' 8 8 = aField w ∧ (maskField w).extractLsb' 0 8 = dField w := by
  constructor <;> apply BitVec.eq_of_getLsbD_eq <;> intro i hi
  · rw [BitVec.getLsbD_extractLsb', maskField_getLsbD, aField_getLsbD]
    simp [show 8 + i < 16 by omega]
  · rw [BitVec.getLsbD_extractLsb', maskField_getLsbD, dField_getLsbD]
    simp [show i < 16 by omega]

/-- The fields of the canonical word are the operands of the operation. -/
theorem withFieldsOf_encode (i : Instr) : i.withFieldsOf (encode i) = i := by
  cases i with
  | writeRegister a v => simp [Instr.withFieldsOf, encode]
  | encode a v => simp [Instr.withFieldsOf, encode]
  | expand m => rw [Instr.withFieldsOf, encode, maskField_cmdWord]
  | bringUp | shutDown | configure | run | halt | validate => rfl

/-- Settles O1: the canonical word carries the number of its operation, with the operands in its fields. -/
theorem decodeOfEncodeGivesTheInstr : Obligations.DecodeOfEncodeGivesTheInstr := by
  unfold Obligations.DecodeOfEncodeGivesTheInstr
  intro i _
  obtain ⟨hop, _, _⟩ := opcodeField_statement i
  rw [decode_of_opField i hop, withFieldsOf_encode]

/-- Clearing `a` and `d` keeps `op` alone. -/
theorem cmdWord_op_only (w : Cmd20) : cmdWord (opField w) 0 0 = w &&& 0xF0000#20 := by
  have hmask : ∀ i < 20, (0xF0000#20).getLsbD i = decide (16 ≤ i) := by decide
  apply BitVec.eq_of_getLsbD_eq
  intro i hi
  rw [cmdWord_getLsbD, BitVec.getLsbD_and, hmask i hi, opField_getLsbD]
  by_cases h16 : i < 16
  · simp [h16, show ¬ 16 ≤ i by omega]
  · simp [h16, show ¬ i < 8 by omega, show 16 ≤ i by omega, show i - 16 < 4 by omega, show 16 + (i - 16) = i by omega]

/-- The numbers of the operations with operands: classes AV and M (R81, R95). -/
def operandOps : List (BitVec 4) := [3#4, 5#4, 6#4]

/-- The canonical word of a decoded one: the word itself where it has operands, and its `op` alone where it has
none. -/
theorem encode_of_decode {w : Cmd20} {i : Instr} (h : decode w = .ok i) :
    encode i = if opField w ∈ operandOps then w else cmdWord (opField w) 0 0 := by
  obtain ⟨ha, hd⟩ := maskField_bytes w
  have hword : ∀ op, opField w = op → cmdWord op (aField w) (dField w) = w := by
    rintro _ rfl
    exact cmdWord_fields w
  rcases decode_cases h with ⟨hop, rfl⟩ | ⟨hop, rfl⟩ | ⟨hop, rfl⟩ | ⟨hop, rfl⟩ | ⟨hop, rfl⟩ | ⟨hop, rfl⟩ |
    ⟨hop, rfl⟩ | ⟨hop, rfl⟩ | ⟨hop, rfl⟩
  case inr.inr.inl => rw [if_pos (by rw [hop]; decide)]; exact hword 3 hop
  case inr.inr.inr.inr.inl => rw [if_pos (by rw [hop]; decide)]; exact hword 5 hop
  case inr.inr.inr.inr.inr.inl => rw [if_pos (by rw [hop]; decide), encode, ha, hd]; exact hword 6 hop
  all_goals rw [if_neg (by rw [hop]; decide), hop]; rfl

/-- Settles O2: the canonical word is the word itself, or its `op` alone. -/
theorem encodeOfDecodeGivesTheCanonicalWord : Obligations.EncodeOfDecodeGivesTheCanonicalWord := by
  unfold Obligations.EncodeOfDecodeGivesTheCanonicalWord
  intro w i h
  obtain ⟨hop, _, _⟩ := opcodeField_statement i
  refine ⟨hop.trans (opField_of_decode h).symm, fun hmem => ?_, fun hmem => ?_⟩
  · rw [encode_of_decode h]
    exact if_pos hmem
  · rw [encode_of_decode h, ← cmdWord_op_only]
    exact if_neg hmem

/-- Settles O5: each word written out is put through the decoder. -/
theorem wordsOfTheOpcodeMapDecode : Obligations.WordsOfTheOpcodeMapDecode :=
  ⟨rfl, rfl, rfl, rfl, rfl, rfl, rfl, rfl, rfl, rfl⟩

end Sys2Proof
end

section
/-! SUPPORT. `CONFIGURE` with every check holding (42_bus_controller.md R141 to R144), and the refusals and failures of
`RUN` at acceptance (R146; 93_implementation_defined.md U12). -/

namespace Sys2Proof.Machine

/-- A list of Boolean checks all hold exactly where the propositions they stand for do. -/
theorem all_hold_iff_of_standsFor {checks : List (Bool × Chan × SubCause)} {stated : List (Prop × Byte)}
    (h : List.Forall₂ CheckStandsFor checks stated) : (∀ c ∈ checks, c.1 = true) ↔ ∀ c ∈ stated, c.1 := by
  induction h with
  | nil => simp
  | cons hfirst _ ih =>
    obtain ⟨hiff, _⟩ := hfirst
    rw [List.forall_mem_cons, List.forall_mem_cons, hiff, ih]

/-- `CONFIGURE` finds no violation exactly where every listed check holds (R142, R143). -/
theorem configureViolation_eq_none_iff (s : State) :
    configureViolation s = none ↔ ∀ c ∈ configureChecks s, c.1 := by
  rw [configureViolation_eq, firstFailure_eq_none, all_hold_iff_of_standsFor (checkList_standsFor s)]

/-- No pin that a passed `CONFIGURE` takes belongs to the session (R143, R238). -/
theorem not_session_of_configured {s : State} (h : configureViolation s = none) :
    ∀ p ∈ s.cfg.desc.data.pins ++ s.cfg.desc.stp.pins ++ s.cfg.desc.nxt.pins, s.owner.get p ≠ .session := by
  have hall := (configureViolation_eq_none_iff s).1 h
  have hpins {ps : List Pin} {info : Byte} (hmem : (∀ p ∈ ps, PinBindable s p, info) ∈ configureChecks s) :
      ∀ p ∈ ps, s.owner.get p ≠ .session := fun p hp => (hall _ hmem p hp).2
  intro p hp
  rw [List.mem_append, List.mem_append] at hp
  rcases hp with (hp | hp) | hp
  · exact hpins (info := 0x05) (by simp [configureChecks]) p hp
  · exact hpins (info := 0x0D) (by simp [configureChecks]) p hp
  · exact hpins (info := 0x15) (by simp [configureChecks]) p hp

theorem exec_configure_of_checked {s : State} (h : configureViolation s = none) :
    exec .configure s = .next (succeed .ok 0 (configureCommit (accept s))) := by
  simp [exec, execConfigure, h]

/-- Settles O19: with no violation `CONFIGURE` commits, and the owners are those of `OwnerMap.get_setAll`. -/
theorem configureCommitsWhenEveryCheckHolds : Obligations.ConfigureCommitsWhenEveryCheckHolds := by
  unfold Obligations.ConfigureCommitsWhenEveryCheckHolds
  intro s hall
  have hnone : configureViolation s = none := (configureViolation_eq_none_iff s).2 hall
  exact ⟨_, exec_configure_of_checked hnone, succeed_responded .ok 0 _, rfl, rfl, rfl, rfl, rfl, ⟨rfl, rfl, rfl⟩,
    OwnerMap.get_setAll _ _ _, rfl, rfl, rfl, rfl, rfl, rfl, rfl⟩

/-! ### Answers of `RUN` at acceptance -/

/-- Settles O24: the failure is raised at acceptance. -/
theorem unconfiguredRunIsIllegal : Obligations.UnconfiguredRunIsIllegal := by
  unfold Obligations.UnconfiguredRunIsIllegal
  intro s hconf
  exact ⟨_, exec_run_of_unconfigured hconf, raise_responded _ _, raise_accept_onlyResponseDiffers _ s⟩

/-- Only the reference table has rules for `RUN` (U12). -/
theorem referenceRunnable_of_off_table {s : State} (h : s.cfg.desc ≠ s.cfg.reference) :
    referenceRunnable s = false := by
  simp [referenceRunnable, h]

theorem exec_run_of_not_runnable {s : State} (hconf : s.ctl.configured = true) (h : referenceRunnable s = false) :
    exec .run s = .refused .noRunRuleForDescriptors := by
  simp [exec, execRun, hconf, h]

theorem exec_writeRegister_of_not_runnable {a v : Byte} {s : State} (ha : addressAdmitted a = true)
    (hv : configureViolation s = none) (h : referenceRunnable (prepareWrite a v (accept s)) = false) :
    exec (.writeRegister a v) s = .refused .noRunRuleForDescriptors := by
  simp [exec, execWriteRegister, ha, hv, h]

/-- Settles O25: neither operation changes the descriptors before the test for the reference table. -/
theorem runOffTheReferenceTableIsRefused : Obligations.RunOffTheReferenceTableIsRefused := by
  unfold Obligations.RunOffTheReferenceTableIsRefused
  intro s a v hoff
  refine ⟨fun hconf => exec_run_of_not_runnable hconf (referenceRunnable_of_off_table hoff), fun ha hall => ?_⟩
  have hprepared : referenceRunnable (prepareWrite a v (accept s)) = false := referenceRunnable_of_off_table hoff
  exact exec_writeRegister_of_not_runnable (addressAdmitted_of_le ha) ((configureViolation_eq_none_iff s).2 hall)
    hprepared

end Sys2Proof.Machine
end

section
/-! SUPPORT. The invariant of the block (Safety.lean) cut by the registers its clauses read, so that an operation is
held to the clauses on what it writes and to no others. -/

namespace Sys2Proof.Machine

/-! ### The clauses by what they read -/

/-- The clauses on the host port and the operation in progress (R36, R44, R88, R89). -/
structure PortInv (q : HostPort) (f : InFlight) : Prop where
  busy_iff : q.busy = true ↔ f ≠ .idle
  codes : q.rspValid = true → q.rspCode.toNat ≤ 6 ∧ q.rspStage ≠ 2 ∧ q.rspStage ≠ 3
  idle : q.rspValid = true → q.busy = false

/-- The clauses on the channels, the buffers and the data pins (R33 to R35, R149 to R151, R161). -/
structure ChannelInv (p : Params) (c : Control) (b : Buffers) (pins : PinRegs) : Prop where
  within : c.running = true → c.configured = true ∧ ReferencePlatform p ∧ c.cyc.toNat < p.cycleLimit
  presents : c.running = true → ∀ k : Fin 8, k.val = c.cyc.toNat →
    pins.dataOut = b.dataBuf[k] ∧ pins.dataOe0 = b.dirBuf.getLsbD (2 * k.val) ∧
      pins.dataOe1 = b.dirBuf.getLsbD (2 * k.val + 1)
  released : c.running = false → pins.dataOe0 = false ∧ pins.dataOe1 = false
  above : c.running = true → ∀ i, c.cyc.toNat ≤ i → b.capBuf.getLsbD i = false
  cyc_le : c.cyc.toNat ≤ p.cycleLimit
  done_full : c.runDone = true → c.running = false ∧ c.runHalted = false ∧ c.cyc.toNat = p.cycleLimit
  not_halted : c.running = true → c.runHalted = false

/-- The clauses on the owners of the pins (R31, R37, R161, R238). -/
structure OwnerInv (p : Params) (c : Control) (m : OwnerMap) (n : Session) (pins : PinRegs) : Prop where
  configured : c.configured = true →
    (c.chData = programmed p.desc.data ∧ c.chStp = programmed p.desc.stp ∧ c.chNxt = programmed p.desc.nxt) ∧
      ∀ q ∈ p.desc.data.pins ++ p.desc.stp.pins ++ p.desc.nxt.pins, m.get q = .controller
  session : m.reset = .session ∧ m.dir = .session
  stp_iff : m.stp = .session ↔ n.buState ≠ .ready
  stp_idle : m.stp ≠ .session → pins.stpLevel = false

/-- The session and the reset pin where no `BRING_UP` is in progress (R182, R189, R190, R192, R206). -/
structure RestInv (n : Session) (pins : PinRegs) : Prop where
  state : n.buState = .resetAsserted ∨ n.buState = .ready ∨ n.buState = .failed
  out : n.buState = .ready ∨ n.buState = .failed → pins.resetOut = true
  held : n.buState = .resetAsserted → pins.resetOut = false

/-- The session and its pins as the operation in progress has them: a wait of `BRING_UP` in its own state (R181 to
R188), and anything else at rest. -/
def SessionInv (f : InFlight) (c : Control) (n : Session) (pins : PinRegs) : Prop :=
  match f with
  | .bringUpHold => c.configured = false ∧ n.buState = .resetAsserted ∧ pins.resetOut = false ∧ pins.stpLevel = true
  | .bringUpSettle => c.configured = false ∧ n.buState = .resetReleased ∧ pins.resetOut = true ∧ pins.stpLevel = true
  | .bringUpPoll =>
    c.configured = false ∧ n.buState = .awaitingClockStable ∧ pins.resetOut = true ∧ pins.stpLevel = false
  | .idle | .run _ | .writeRun _ => RestInv n pins

/-- The operation in progress is no `BRING_UP`. -/
def InFlight.noBringUp (f : InFlight) : Prop := f ≠ .bringUpHold ∧ f ≠ .bringUpSettle ∧ f ≠ .bringUpPoll

theorem noBringUp_idle : InFlight.idle.noBringUp :=
  ⟨InFlight.noConfusion, InFlight.noConfusion, InFlight.noConfusion⟩

theorem sessionInv_of_noBringUp {f : InFlight} (hf : f.noBringUp) (c : Control) (n : Session) (pins : PinRegs) :
    SessionInv f c n pins ↔ RestInv n pins := by
  obtain ⟨hhold, hsettle, hpoll⟩ := hf
  cases f with
  | bringUpHold => exact absurd rfl hhold
  | bringUpSettle => exact absurd rfl hsettle
  | bringUpPoll => exact absurd rfl hpoll
  | idle | run | writeRun => rfl

/-- A run in progress is that of `RUN` or of `WRITE_REGISTER`. -/
theorem inFlight_run_iff {f : InFlight} {t0 : Nat} : f = .run t0 ∨ f = .writeRun t0 ↔ ∃ o : RunOf, f = o.wait t0 :=
  ⟨fun h => h.elim (⟨.run, ·⟩) (⟨.writeRegister, ·⟩),
    fun ⟨o, h⟩ => match o with
      | .run => .inl h
      | .writeRegister => .inr h⟩

theorem RunOf.wait_noBringUp (o : RunOf) (t0 : Nat) : (o.wait t0).noBringUp := by
  cases o <;> exact ⟨InFlight.noConfusion, InFlight.noConfusion, InFlight.noConfusion⟩

theorem RunOf.wait_ne_idle (o : RunOf) (t0 : Nat) : o.wait t0 ≠ .idle := by
  cases o <;> exact InFlight.noConfusion

/-- The wait of a run records the time of its trigger (R155). -/
theorem RunOf.wait_inj {o o' : RunOf} {t t' : Nat} (h : o.wait t = o'.wait t') : t = t' := by
  cases o <;> cases o' <;> cases h <;> rfl

/-- What holds of the block before a look at its wait, the events of an instant included: the channels may have
stopped, and the time of a wait may have come. -/
structure LookInv (s : State) : Prop where
  port : PortInv s.port s.inFlight
  channels : ChannelInv s.cfg s.ctl s.buf s.pins
  owners : OwnerInv s.cfg s.ctl s.owner s.session s.pins
  session : SessionInv s.inFlight s.ctl s.session s.pins
  runs : s.ctl.running = true → ∃ (o : RunOf) (t0 : Nat), s.inFlight = o.wait t0

/-- What a look adds: the wait in progress has not ended (R146, R155, R183, R185, R188). -/
structure WaitInv (s : State) : Prop where
  running : ∀ (o : RunOf) t0, s.inFlight = o.wait t0 → s.ctl.running = true
  delay : s.inFlight = .bringUpHold ∨ s.inFlight = .bringUpSettle → now s < s.session.buDeadline
  timeout : ∀ (o : RunOf) t0 t, s.inFlight = o.wait t0 → s.cfg.runTimeout = some t → now s - t0 < t
  poll : s.inFlight = .bringUpPoll → dirIn s = true ∧ now s < s.session.buDeadline

/-- Where nothing is in progress there is no wait. -/
theorem waitInv_of_idle {s : State} (hf : s.inFlight = .idle) : WaitInv s where
  running := fun o t0 ho => absurd (ho.symm.trans hf) (o.wait_ne_idle t0)
  delay := by simp [hf]
  timeout := fun o t0 _ ho => absurd (ho.symm.trans hf) (o.wait_ne_idle t0)
  poll := by simp [hf]

theorem lookInv_of_blockInv {s : State} (h : BlockInv s) : LookInv s where
  port := ⟨h.busy_iff, h.response_codes, h.response_idle⟩
  channels := ⟨h.running_within, h.running_presents, h.idle_released, h.capture_above, h.cyc_le, h.done_full,
    h.running_not_halted⟩
  owners := ⟨h.configured_owns, h.session_pins, h.stp_session_iff, h.stp_idle⟩
  session := by
    have hrest (hf : s.inFlight.noBringUp) : SessionInv s.inFlight s.ctl s.session s.pins :=
      (sessionInv_of_noBringUp hf ..).2 ⟨h.rest_state hf, h.reset_level.1, h.reset_level.2⟩
    by_cases hhold : s.inFlight = .bringUpHold
    · rw [hhold]; exact ⟨h.bringUp_unconfigured (.inl hhold), h.hold_state hhold⟩
    by_cases hsettle : s.inFlight = .bringUpSettle
    · rw [hsettle]; exact ⟨h.bringUp_unconfigured (.inr (.inl hsettle)), h.settle_state hsettle⟩
    by_cases hpoll : s.inFlight = .bringUpPoll
    · rw [hpoll]; exact ⟨h.bringUp_unconfigured (.inr (.inr hpoll)), h.poll_state hpoll⟩
    · exact hrest ⟨hhold, hsettle, hpoll⟩
  runs := fun hr => by
    obtain ⟨t0, ht0⟩ := h.running_iff.1 hr
    obtain ⟨o, ho⟩ := inFlight_run_iff.1 ht0
    exact ⟨o, t0, ho⟩

/-- The level of the reset pin follows from the clause on the session, whatever is in progress. -/
theorem SessionInv.reset_level {f : InFlight} {c : Control} {n : Session} {pins : PinRegs}
    (h : SessionInv f c n pins) : (n.buState = .ready ∨ n.buState = .failed → pins.resetOut = true) ∧
      (n.buState = .resetAsserted → pins.resetOut = false) := by
  cases f with
  | bringUpHold =>
    obtain ⟨_, hstate, hout, _⟩ := h
    exact ⟨fun h => by simp [hstate] at h, fun _ => hout⟩
  | bringUpSettle | bringUpPoll =>
    obtain ⟨_, hstate, hout, _⟩ := h
    exact ⟨fun _ => hout, fun h => by simp [hstate] at h⟩
  | idle | run | writeRun => exact ⟨RestInv.out h, RestInv.held h⟩

/-- The invariant is what holds before a look together with what the look adds. -/
theorem blockInv_of_waitInv {s : State} (h : LookInv s) (hw : WaitInv s) : BlockInv s where
  busy_iff := h.port.busy_iff
  running_iff := by
    refine ⟨fun hr => ?_, fun ⟨t0, ht0⟩ => ?_⟩
    · obtain ⟨o, t0, ho⟩ := h.runs hr
      exact ⟨t0, inFlight_run_iff.2 ⟨o, ho⟩⟩
    · obtain ⟨o, ho⟩ := inFlight_run_iff.1 ht0
      exact hw.running o t0 ho
  running_within := h.channels.within
  running_presents := h.channels.presents
  idle_released := h.channels.released
  capture_above := h.channels.above
  cyc_le := h.channels.cyc_le
  done_full := h.channels.done_full
  running_not_halted := h.channels.not_halted
  configured_owns := h.owners.configured
  session_pins := h.owners.session
  stp_session_iff := h.owners.stp_iff
  stp_idle := h.owners.stp_idle
  bringUp_unconfigured := by
    have hs := h.session
    rintro (hf | hf | hf) <;> rw [hf] at hs <;> exact hs.1
  hold_state := fun hf => by have hs := h.session; rw [hf] at hs; exact hs.2
  settle_state := fun hf => by have hs := h.session; rw [hf] at hs; exact hs.2
  poll_state := fun hf => by have hs := h.session; rw [hf] at hs; exact hs.2
  delay_waits := hw.delay
  run_waits := fun t0 t ht0 ht => by
    obtain ⟨o, ho⟩ := inFlight_run_iff.1 ht0
    exact hw.timeout o t0 t ho ht
  poll_waits := hw.poll
  rest_state := fun hf => ((sessionInv_of_noBringUp hf ..).1 h.session).state
  reset_level := h.session.reset_level
  response_codes := h.port.codes
  response_idle := h.port.idle

theorem BlockInv.waitInv {s : State} (h : BlockInv s) : WaitInv s :=
  ⟨fun o t0 ho => h.running_iff.2 ⟨t0, inFlight_run_iff.2 ⟨o, ho⟩⟩, h.delay_waits,
    fun o t0 t ho => h.run_waits t0 t (inFlight_run_iff.2 ⟨o, ho⟩), h.poll_waits⟩

/-! ### The environment -/

/-- Before a look the invariant does not read the present instant. -/
theorem LookInv.atInstant {s : State} (h : LookInv s) (e : Instant) : LookInv { s with env := e } :=
  ⟨h.port, h.channels, h.owners, h.session, h.runs⟩

/-- The invariant reads neither the instants to come nor the count of free values. -/
theorem BlockInv.withEnvironment {s : State} (h : BlockInv s) (es : List Instant) (n : Nat) :
    BlockInv { s with inputs := es, freeCount := n } :=
  have hl := lookInv_of_blockInv h
  have hw := h.waitInv
  blockInv_of_waitInv ⟨hl.port, hl.channels, hl.owners, hl.session, hl.runs⟩
    ⟨hw.running, hw.delay, hw.timeout, hw.poll⟩

/-! ### The events of an instant -/

/-- Halting the channels keeps the clauses on them: a run that is done was not running (R157). -/
theorem ChannelInv.after_haltAll {s : State} (h : ChannelInv s.cfg s.ctl s.buf s.pins) :
    ChannelInv s.cfg (haltAll s).ctl (haltAll s).buf (haltAll s).pins where
  within := Bool.noConfusion
  presents := Bool.noConfusion
  released := fun _ => ⟨rfl, rfl⟩
  above := Bool.noConfusion
  cyc_le := h.cyc_le
  done_full := fun hd => by
    obtain ⟨hrun, hhalted, hfull⟩ := h.done_full hd
    exact ⟨rfl, by simp [hrun, hhalted], hfull⟩
  not_halted := Bool.noConfusion

/-- The clauses on the channels do not read the pins of the session. -/
theorem ChannelInv.withSessionPins {p : Params} {c : Control} {b : Buffers} {pins : PinRegs}
    (h : ChannelInv p c b pins) (out stp : Bool) :
    ChannelInv p c b { pins with resetOut := out, stpLevel := stp } :=
  ⟨h.within, h.presents, h.released, h.above, h.cyc_le, h.done_full, h.not_halted⟩

/-- Releasing the data pins touches no pin of the session. -/
theorem SessionInv.after_haltAll {s : State} (h : SessionInv s.inFlight s.ctl s.session s.pins) :
    SessionInv s.inFlight (haltAll s).ctl s.session (haltAll s).pins := by
  generalize s.inFlight = f at h
  cases f with
  | bringUpHold | bringUpSettle | bringUpPoll => exact h
  | idle | run | writeRun =>
    obtain ⟨hstate, hout, hheld⟩ := h
    exact ⟨hstate, hout, hheld⟩

theorem LookInv.after_haltAll {s : State} (h : LookInv s) : LookInv (haltAll s) where
  port := h.port
  channels := h.channels.after_haltAll
  owners := ⟨h.owners.configured, h.owners.session, h.owners.stp_iff, h.owners.stp_idle⟩
  session := h.session.after_haltAll
  runs := Bool.noConfusion

/-- A run in progress is no `BRING_UP`, so the session is at rest. -/
theorem LookInv.rest_of_running {s : State} (h : LookInv s) (hr : s.ctl.running = true) :
    s.inFlight.noBringUp ∧ RestInv s.session s.pins := by
  have hf : s.inFlight.noBringUp := by
    obtain ⟨o, t0, hf⟩ := h.runs hr
    exact hf ▸ o.wait_noBringUp t0
  exact ⟨hf, (sessionInv_of_noBringUp hf ..).1 h.session⟩

/-- The index of the next cycle does not wrap within the buffers (R33, R61). -/
theorem cyc_succ_toNat {n : Nat} (h : n ≤ 8) : (BitVec.ofNat 4 n).toNat = n :=
  Nat.mod_eq_of_lt (by omega)

/-- The sample of cycle `k` leaves the bits above it as they were. -/
theorem writeBit_above {w : Word32} {k : Nat} (h : ∀ i, k ≤ i → w.getLsbD i = false) (b : Bool) {i : Nat}
    (hi : k + 1 ≤ i) : (writeBit w k b).getLsbD i = false := by
  by_cases h32 : i < 32
  · rw [writeBit_getLsbD _ _ _ _ h32, if_neg (by omega), h i (by omega)]
  · exact BitVec.getLsbD_of_ge _ _ (by omega)

/-- An engine step keeps the clauses on the channels: the cycle it moves on to is presented, or the channels halt with
every cycle shifted (R148 to R152). -/
theorem ChannelInv.after_engineStep {n : Bool} {s t : State} (h : ChannelInv s.cfg s.ctl s.buf s.pins)
    (hr : s.ctl.running = true) (hstep : engineStep n s = .next t) : ChannelInv t.cfg t.ctl t.buf t.pins := by
  obtain ⟨hconf, href, _⟩ := h.within hr
  have hnotDone : s.ctl.runDone = false := by
    by_contra hd
    obtain ⟨hstopped, _⟩ := h.done_full (by simpa using hd)
    exact absurd hr (by simp [hstopped])
  obtain ⟨⟨h8, _⟩, hcases⟩ := engineStep_cases hstep
  rcases hcases with ⟨k, hk, hlt, rfl⟩ | ⟨hlast, rfl⟩
  · have hcyc : (BitVec.ofNat 4 (s.ctl.cyc.toNat + 1)).toNat = s.ctl.cyc.toNat + 1 := cyc_succ_toNat (by omega)
    exact
      { within := fun _ => ⟨hconf, href, hcyc.symm ▸ hlt⟩
        presents := fun _ k' hk' => by
          obtain rfl : k' = k := Fin.ext ((hk'.trans hcyc).trans hk.symm)
          exact ⟨rfl, rfl, rfl⟩
        released := fun hstopped => absurd (hstopped.symm.trans hr) Bool.false_ne_true
        above := fun _ i hi => writeBit_above (h.above hr) n (hcyc ▸ hi)
        cyc_le := hcyc.symm ▸ hlt.le
        done_full := fun hd => absurd (hnotDone.symm.trans hd) Bool.false_ne_true
        not_halted := fun _ => h.not_halted hr }
  · have hcyc : (BitVec.ofNat 4 (s.ctl.cyc.toNat + 1)).toNat = s.cfg.cycleLimit :=
      (cyc_succ_toNat (by omega)).trans hlast
    exact
      { within := Bool.noConfusion
        presents := Bool.noConfusion
        released := fun _ => ⟨rfl, rfl⟩
        above := Bool.noConfusion
        cyc_le := hcyc.le
        done_full := fun _ => ⟨rfl, h.not_halted hr, hcyc⟩
        not_halted := Bool.noConfusion }

/-- The events of an instant keep the clauses on the channels. -/
theorem ChannelInv.after_events {s t : State} (h : ChannelInv s.cfg s.ctl s.buf s.pins) (hev : events s = .next t) :
    ChannelInv t.cfg t.ctl t.buf t.pins := by
  obtain ⟨u, hclock, hhalt⟩ := events_cases hev
  have hu : ChannelInv u.cfg u.ctl u.buf u.pins := by
    rcases hclock with ⟨_, hr, hstep⟩ | ⟨_, rfl⟩
    · exact h.after_engineStep hr hstep
    · exact h
  rcases hhalt with ⟨_, rfl⟩ | ⟨_, rfl⟩
  · exact hu.after_haltAll
  · exact hu

theorem LookInv.after_engineStep {n : Bool} {s t : State} (h : LookInv s) (hr : s.ctl.running = true)
    (hstep : engineStep n s = .next t) : LookInv t := by
  have hchannels := h.channels.after_engineStep hr hstep
  obtain ⟨hf, hrest⟩ := h.rest_of_running hr
  have hruns := h.runs hr
  obtain ⟨_, ⟨k, _, _, rfl⟩ | ⟨_, rfl⟩⟩ := engineStep_cases hstep <;>
    exact ⟨h.port, hchannels, ⟨h.owners.configured, h.owners.session, h.owners.stp_iff, h.owners.stp_idle⟩,
      (sessionInv_of_noBringUp hf ..).2 ⟨hrest.state, hrest.out, hrest.held⟩, fun _ => hruns⟩

/-- The events of an instant keep what holds before a look. -/
theorem LookInv.after_events {s t : State} (h : LookInv s) (hev : events s = .next t) : LookInv t := by
  obtain ⟨u, hclock, hhalt⟩ := events_cases hev
  have hu : LookInv u := by
    rcases hclock with ⟨_, hr, hstep⟩ | ⟨_, rfl⟩
    · exact h.after_engineStep hr hstep
    · exact h
  rcases hhalt with ⟨_, rfl⟩ | ⟨_, rfl⟩
  · exact hu.after_haltAll
  · exact hu

/-! ### Responses -/

/-- What an operation has left when it responds: the channels are stopped and the session is at rest. -/
structure Resting (s : State) : Prop where
  stopped : s.ctl.running = false
  channels : ChannelInv s.cfg s.ctl s.buf s.pins
  owners : OwnerInv s.cfg s.ctl s.owner s.session s.pins
  rest : RestInv s.session s.pins

/-- A legal response over it ends the operation with the invariant (R88, R89, R206). -/
theorem Resting.blockInv_writeResponse {s : State} (h : Resting s) {c : BitVec 4} {st : BitVec 3}
    (hc : c.toNat ≤ 6 ∧ st ≠ 2 ∧ st ≠ 3) (i : Byte) (w : Option (Word32 × Word32)) :
    BlockInv (writeResponse c st i w s) := by
  have hport : PortInv (writeResponse c st i w s).port .idle :=
    ⟨⟨Bool.noConfusion, fun hne => absurd rfl hne⟩, fun _ => hc, fun _ => rfl⟩
  exact blockInv_of_waitInv
    ⟨hport, h.channels, h.owners, h.rest, fun hr => absurd (h.stopped.symm.trans hr) Bool.false_ne_true⟩
    (waitInv_of_idle rfl)

theorem Resting.blockInv_succeed {s : State} (h : Resting s) (c : Success) (i : Byte) : BlockInv (succeed c i s) :=
  h.blockInv_writeResponse (by cases c <;> decide) i none

theorem Failure.legal (f : Failure) : f.code.toNat ≤ 6 ∧ f.stage ≠ 2 ∧ f.stage ≠ 3 := by
  cases f <;> simp [Failure.code, Failure.stage]

theorem Resting.blockInv_raise {s : State} (h : Resting s) (f : Failure) : BlockInv (raise f s) :=
  h.blockInv_writeResponse f.legal _ _

theorem Resting.blockInv_validateResponse {s : State} (h : Resting s) : BlockInv (validateResponse s) := by
  rcases validateResponse_cases s with ⟨_, hv⟩ | ⟨_, hv⟩ <;> rw [hv]
  · exact h.blockInv_succeed ..
  · exact h.blockInv_raise _

/-- A block with its channels halted is at rest, outside `BRING_UP`. -/
theorem LookInv.resting_haltAll {s : State} (h : LookInv s) (hf : s.inFlight.noBringUp) : Resting (haltAll s) :=
  ⟨rfl, h.after_haltAll.channels, h.after_haltAll.owners, (sessionInv_of_noBringUp hf ..).1 h.after_haltAll.session⟩

/-! ### One look at the wait -/

/-- A look at the wait of a run leaves it in progress, with no timeout expired, or ends it (R146, R155). -/
theorem LookInv.blockInv_waitRun {o : RunOf} {t0 : Nat} {s : State} (h : LookInv s) (hf : s.inFlight = o.wait t0) :
    BlockInv (waitRun o t0 s) := by
  have hended : Resting (haltAll s) := h.resting_haltAll (hf ▸ o.wait_noBringUp t0)
  have hstays (hr : s.ctl.running = true) (htime : ∀ t, s.cfg.runTimeout = some t → now s - t0 < t) : BlockInv s := by
    obtain ⟨hhold, hsettle, hpoll⟩ : s.inFlight.noBringUp := hf ▸ o.wait_noBringUp t0
    refine blockInv_of_waitInv h ⟨fun _ _ _ => hr, fun hd => ?_, fun o' t0' t ho' ht => ?_, fun hp => absurd hp hpoll⟩
    · exact (hd.elim hhold hsettle).elim
    · obtain rfl := RunOf.wait_inj (hf.symm.trans ho')
      exact htime t ht
  unfold waitRun
  split
  · rename_i hr
    split
    · rename_i hnone
      exact hstays hr fun t ht => absurd (hnone.symm.trans ht) (by simp)
    · rename_i t ht
      split
      · exact hended.blockInv_raise _
      · rename_i hearly
        refine hstays hr fun t' ht' => ?_
        obtain rfl : t = t' := Option.some.inj (ht.symm.trans ht')
        exact Nat.lt_of_not_le hearly
  · cases o
    · exact hended.blockInv_succeed ..
    · exact hended.blockInv_validateResponse

/-- In a wait of `BRING_UP` no run is in progress. -/
theorem stopped_of_bringUp {s : State} (h : LookInv s)
    (hf : s.inFlight = .bringUpHold ∨ s.inFlight = .bringUpSettle ∨ s.inFlight = .bringUpPoll) :
    s.ctl.running = false := by
  by_contra hr
  obtain ⟨⟨hhold, hsettle, hpoll⟩, _⟩ := h.rest_of_running (by simpa using hr)
  exact hf.elim hhold (·.elim hsettle hpoll)

/-- A look at the polling ends it, or finds it waiting (R188 to R190). -/
theorem LookInv.blockInv_pollDir {s : State} (h : LookInv s) (hf : s.inFlight = .bringUpPoll) :
    BlockInv (pollDir s) := by
  have hr : s.ctl.running = false := stopped_of_bringUp h (.inr (.inr hf))
  obtain ⟨hconf, hstate, hout, hstp⟩ : SessionInv .bringUpPoll s.ctl s.session s.pins := hf ▸ h.session
  have hsession : s.owner.stp = .session := h.owners.stp_iff.2 (by simp [hstate])
  unfold pollDir
  split
  · rename_i hdir
    split
    · have howners : OwnerInv s.cfg s.ctl s.owner (enterFailed s).session s.pins :=
        ⟨h.owners.configured, h.owners.session, ⟨fun _ => BuState.noConfusion, fun _ => hsession⟩, h.owners.stp_idle⟩
      exact Resting.blockInv_raise (s := { s with session := (enterFailed s).session })
        ⟨hr, h.channels, howners, .inr (.inr rfl), fun _ => hout, BuState.noConfusion⟩ _
    · rename_i hearly
      have hnoRun (o : RunOf) (t0 : Nat) (ho : s.inFlight = o.wait t0) : False := by
        obtain ⟨_, _, hpoll⟩ : s.inFlight.noBringUp := ho ▸ o.wait_noBringUp t0
        exact hpoll hf
      exact blockInv_of_waitInv h ⟨fun o t0 ho => (hnoRun o t0 ho).elim, by simp [hf],
        fun o t0 _ ho => (hnoRun o t0 ho).elim, fun _ => ⟨hdir, Nat.lt_of_not_le hearly⟩⟩
  · have howners : OwnerInv s.cfg s.ctl (s.owner.set .stp .free) (readySession s) s.pins :=
      ⟨fun hc => absurd (hconf.symm.trans hc) Bool.false_ne_true, h.owners.session,
        ⟨Owner.noConfusion, fun hne => absurd rfl hne⟩, fun _ => hstp⟩
    exact Resting.blockInv_succeed (s := { s with session := readySession s, owner := s.owner.set .stp .free })
      ⟨hr, h.channels, howners, .inr (.inl rfl), fun _ => hout, BuState.noConfusion⟩ _ _

/-- A delay of `BRING_UP` goes on until its deadline (R183, R185). -/
theorem LookInv.waits_of_delay {s : State} (h : LookInv s)
    (hf : s.inFlight = .bringUpHold ∨ s.inFlight = .bringUpSettle)
    (hearly : ¬ s.session.buDeadline ≤ now s) : BlockInv s := by
  have hnoRun (o : RunOf) (t0 : Nat) (ho : s.inFlight = o.wait t0) : False := by
    obtain ⟨hhold, hsettle, _⟩ : s.inFlight.noBringUp := ho ▸ o.wait_noBringUp t0
    exact hf.elim hhold hsettle
  refine blockInv_of_waitInv h ⟨fun o t0 ho => (hnoRun o t0 ho).elim, fun _ => Nat.lt_of_not_le hearly,
    fun o t0 _ ho => (hnoRun o t0 ho).elim, fun hp => ?_⟩
  rw [hp] at hf
  exact hf.elim InFlight.noConfusion InFlight.noConfusion

/-- A look at the settle delay finds it waiting, or begins the polling with its first poll (R185 to R188). -/
theorem LookInv.blockInv_waitSettle {s : State} (h : LookInv s) (hf : s.inFlight = .bringUpSettle) :
    BlockInv (waitSettle s) := by
  obtain ⟨hconf, hstate, hout, _⟩ : SessionInv .bringUpSettle s.ctl s.session s.pins := hf ▸ h.session
  have hsession : s.owner.stp = .session := h.owners.stp_iff.2 (by simp [hstate])
  unfold waitSettle
  split
  · have hport : PortInv s.port .bringUpPoll := ⟨by simp [h.port.busy_iff, hf], h.port.codes, h.port.idle⟩
    have hpolling : LookInv (enterAwaitingClockStable s) :=
      { port := hport
        channels := h.channels.withSessionPins ..
        owners := ⟨h.owners.configured, h.owners.session, ⟨fun _ => BuState.noConfusion, fun _ => hsession⟩,
          fun _ => rfl⟩
        session := ⟨hconf, rfl, hout, rfl⟩
        runs := fun hr => absurd ((stopped_of_bringUp h (.inr (.inl hf))).symm.trans hr) Bool.false_ne_true }
    exact hpolling.blockInv_pollDir rfl
  · rename_i hearly
    exact h.waits_of_delay (.inr hf) hearly

/-- A look at the reset hold finds it waiting, or begins the settle delay (R183 to R185). -/
theorem LookInv.blockInv_waitHold {s : State} (h : LookInv s) (hf : s.inFlight = .bringUpHold) :
    BlockInv (waitHold s) := by
  obtain ⟨hconf, hstate, _, hstp⟩ : SessionInv .bringUpHold s.ctl s.session s.pins := hf ▸ h.session
  have hsession : s.owner.stp = .session := h.owners.stp_iff.2 (by simp [hstate])
  unfold waitHold
  split
  · have hport : PortInv s.port .bringUpSettle := ⟨by simp [h.port.busy_iff, hf], h.port.codes, h.port.idle⟩
    have hsettling : LookInv (enterResetReleased s) :=
      { port := hport
        channels := h.channels.withSessionPins ..
        owners := ⟨h.owners.configured, h.owners.session, ⟨fun _ => BuState.noConfusion, fun _ => hsession⟩,
          h.owners.stp_idle⟩
        session := ⟨hconf, rfl, rfl, hstp⟩
        runs := fun hr => absurd ((stopped_of_bringUp h (.inl hf)).symm.trans hr) Bool.false_ne_true }
    exact hsettling.blockInv_waitSettle rfl
  · rename_i hearly
    exact h.waits_of_delay (.inl hf) hearly

/-- Every look at the wait in progress restores the invariant. -/
theorem LookInv.blockInv_advance {s : State} (h : LookInv s) : BlockInv (advance s) := by
  cases hf : s.inFlight with
  | idle =>
    have hnone : advance s = s := by simp [advance, hf]
    rw [hnone]
    exact blockInv_of_waitInv h (waitInv_of_idle hf)
  | bringUpHold => rw [advance_of_hold hf]; exact h.blockInv_waitHold hf
  | bringUpSettle => rw [advance_of_settle hf]; exact h.blockInv_waitSettle hf
  | bringUpPoll => rw [advance_of_poll hf]; exact h.blockInv_pollDir hf
  | run t0 => rw [advance_of_run (o := .run) hf]; exact h.blockInv_waitRun hf
  | writeRun t0 => rw [advance_of_run (o := .writeRegister) hf]; exact h.blockInv_waitRun hf

/-! ### Instants -/

/-- The state after a hardware reset has the invariant, on every platform (R261 to R266). -/
theorem blockInv_hardwareReset (s : State) : BlockInv (hardwareReset s) :=
  blockInv_of_waitInv
    { port := ⟨⟨Bool.noConfusion, fun hne => absurd rfl hne⟩, Bool.noConfusion, Bool.noConfusion⟩
      channels := ⟨Bool.noConfusion, Bool.noConfusion, fun _ => ⟨rfl, rfl⟩, Bool.noConfusion, Nat.zero_le _,
        Bool.noConfusion, Bool.noConfusion⟩
      owners := ⟨Bool.noConfusion, ⟨rfl, rfl⟩, ⟨fun _ => BuState.noConfusion, fun _ => rfl⟩, fun hne => absurd rfl hne⟩
      session := ⟨.inl rfl, fun h => h.elim BuState.noConfusion BuState.noConfusion, fun _ => rfl⟩
      runs := Bool.noConfusion }
    (waitInv_of_idle rfl)

theorem BlockInv.after_tick {e : Instant} {s t : State} (h : BlockInv s) (ht : tick e s = .next t) : BlockInv t := by
  rcases tick_cases ht with ⟨_, rfl⟩ | ⟨_, u, hev, rfl⟩
  · exact blockInv_hardwareReset _
  · exact (((lookInv_of_blockInv h).atInstant e).after_events hev).blockInv_advance

theorem BlockInv.after_ownLook {s : State} (h : BlockInv s) : BlockInv (ownLook s) := by
  rw [ownLook_eq]
  exact ((lookInv_of_blockInv h).atInstant _).blockInv_advance

theorem BlockInv.after_drain {es : List Instant} {s t : State} (h : BlockInv s) (hd : drain es s = .next t) :
    BlockInv t :=
  drain_keeps BlockInv (fun s es hs => hs.withEnvironment es s.freeCount) (fun _ _ _ _ hs _ ht => hs.after_tick ht)
    (fun _ hs _ => hs.after_ownLook) h hd

/-! ### Operations -/

/-- A ready block is at rest. -/
theorem LookInv.resting {s : State} (h : LookInv s) (hf : s.inFlight = .idle) : Resting s := by
  have hnone : s.inFlight.noBringUp := hf ▸ noBringUp_idle
  refine ⟨?_, h.channels, h.owners, (sessionInv_of_noBringUp hnone ..).1 h.session⟩
  by_contra hr
  obtain ⟨o, t0, ho⟩ := h.runs (by simpa using hr)
  exact absurd (ho.symm.trans hf) (o.wait_ne_idle t0)

/-- Acceptance touches the port alone. -/
theorem Resting.after_accept {s : State} (h : Resting s) : Resting (accept s) :=
  ⟨h.stopped, h.channels, h.owners, h.rest⟩

/-- While the channels are stopped the clauses on them do not read the buffers. -/
theorem ChannelInv.of_stopped {p : Params} {c : Control} {b : Buffers} {pins : PinRegs} (h : ChannelInv p c b pins)
    (hr : c.running = false) (b' : Buffers) : ChannelInv p c b' pins :=
  have hnot (hrun : c.running = true) : False := Bool.false_ne_true (hr.symm.trans hrun)
  ⟨h.within, fun hrun => (hnot hrun).elim, h.released, fun hrun => (hnot hrun).elim, h.cyc_le, h.done_full,
    h.not_halted⟩

theorem Resting.after_encodeBody {s : State} (h : Resting s) (a v : Byte) : Resting (encodeBody a v s) :=
  ⟨h.stopped, h.channels.of_stopped h.stopped _, h.owners, h.rest⟩

theorem Resting.after_expandBody {s : State} (h : Resting s) (m : Mask16) : Resting (expandBody m s) :=
  ⟨h.stopped, h.channels.of_stopped h.stopped _, h.owners, h.rest⟩

theorem Resting.after_haltAll {s : State} (h : Resting s) : Resting (haltAll s) := by
  obtain ⟨h0, h1⟩ := h.channels.released h.stopped
  rwa [haltAll_of_released h.stopped h0 h1]

/-- The commit of `CONFIGURE` takes no pin of the session, so `Ready` is as before it where it takes the stop pin
(R143, R144). -/
theorem Resting.after_configureCommit {s : State} (h : Resting s) (hv : configureViolation s = none) :
    Resting (configureCommit s) := by
  have hother : ∀ p, s.owner.get p = .session → (configureCommit s).owner.get p = .session := fun p hp => by
    rw [configureCommit_owner, OwnerMap.get_setAll, if_neg fun hmem => not_session_of_configured hv p hmem hp, hp]
  have hnew : ∀ p, (configureCommit s).owner.get p = .session → s.owner.get p = .session := fun p hp => by
    rw [configureCommit_owner, OwnerMap.get_setAll] at hp
    split at hp
    · cases hp
    · exact hp
  obtain ⟨hreset, hdir⟩ := h.owners.session
  have hstop (hrun : s.ctl.running = true) : False := Bool.false_ne_true (h.stopped.symm.trans hrun)
  exact
    { stopped := h.stopped
      channels := ⟨fun hrun => (hstop hrun).elim, fun hrun => (hstop hrun).elim, fun _ => ⟨rfl, rfl⟩,
        fun hrun => (hstop hrun).elim, Nat.zero_le _, Bool.noConfusion, fun hrun => (hstop hrun).elim⟩
      owners := ⟨fun _ => ⟨⟨rfl, rfl, rfl⟩, fun p hp => (OwnerMap.get_setAll ..).trans (if_pos hp)⟩,
        ⟨hother .reset hreset, hother .dir hdir⟩, Iff.trans ⟨hnew .stp, hother .stp⟩ h.owners.stp_iff, fun _ => rfl⟩
      rest := ⟨h.rest.state, h.rest.out, h.rest.held⟩ }

/-- `SHUT_DOWN` frees the pins of the controller and no others (R196). -/
theorem Resting.after_shutDownBody {s : State} (h : Resting s) : Resting (shutDownBody s) := by
  have hsession : ∀ p, (shutDownBody s).owner.get p = .session ↔ s.owner.get p = .session := fun p => by
    rw [shutDownBody_owner, OwnerMap.get_release]
    split
    · rename_i hp; simp [hp.2]
    · exact Iff.rfl
  obtain ⟨hreset, hdir⟩ := h.owners.session
  have howners : OwnerInv s.cfg (shutDownBody s).ctl (shutDownBody s).owner s.session (shutDownBody s).pins :=
    ⟨Bool.noConfusion, ⟨(hsession .reset).2 hreset, (hsession .dir).2 hdir⟩, (hsession .stp).trans h.owners.stp_iff,
      fun hne => h.owners.stp_idle (mt (hsession .stp).2 hne)⟩
  have hhalted := h.channels.after_haltAll
  exact ⟨rfl, ⟨Bool.noConfusion, Bool.noConfusion, hhalted.released, Bool.noConfusion, hhalted.cyc_le,
    hhalted.done_full, Bool.noConfusion⟩, howners, ⟨h.rest.state, h.rest.out, h.rest.held⟩⟩

/-- `BRING_UP` begins with its pins back at the session, the channels halted and nothing configured (R181 to R183). -/
theorem Resting.lookInv_enterResetAsserted {s : State} (h : Resting s) : LookInv (enterResetAsserted (accept s)) := by
  have howner (p : Pin) (hp : p ∈ [Pin.reset, .dir, .stp]) : (ownersAtBringUp s.owner).get p = .session := by
    rw [ownersAtBringUp_get, if_pos hp]
  have hhalted := h.channels.after_haltAll
  exact
    { port := ⟨⟨fun _ => InFlight.noConfusion, fun _ => rfl⟩, Bool.noConfusion, Bool.noConfusion⟩
      channels := ⟨Bool.noConfusion, Bool.noConfusion, hhalted.released, Bool.noConfusion, hhalted.cyc_le,
        hhalted.done_full, Bool.noConfusion⟩
      owners := ⟨Bool.noConfusion, ⟨howner .reset (by decide), howner .dir (by decide)⟩,
        ⟨fun _ => BuState.noConfusion, fun _ => howner .stp (by decide)⟩,
        fun hne => absurd (howner .stp (by decide)) hne⟩
      session := ⟨rfl, rfl, rfl, rfl⟩
      runs := Bool.noConfusion }

/-- Channels over the reference table, within the buffers, are what `RUN` asks for (R61, U12). -/
theorem referencePlatform_of_runnable {s : State} (h : referenceRunnable s = true) : ReferencePlatform s.cfg := by
  simp only [referenceRunnable, Bool.and_eq_true, decide_eq_true_eq] at h
  obtain ⟨⟨⟨⟨⟨hdesc, _⟩, _⟩, _⟩, hlow⟩, hhigh⟩ := h
  exact ⟨hdesc, hlow, hhigh⟩

/-- The start trigger presents cycle 0 over an empty capture (R147; log entry 11). -/
theorem channelInv_startTrigger {s : State} (hconf : s.ctl.configured = true) (href : ReferencePlatform s.cfg) :
    ChannelInv s.cfg (startTrigger s).ctl (startTrigger s).buf (startTrigger s).pins where
  within := fun _ => ⟨hconf, href, href.2.1⟩
  presents := fun _ k hk => by
    obtain rfl : k = 0 := Fin.ext hk
    exact ⟨rfl, rfl, rfl⟩
  released := Bool.noConfusion
  above := fun _ _ _ => BitVec.getLsbD_zero
  cyc_le := Nat.zero_le _
  done_full := Bool.noConfusion
  not_halted := fun _ => rfl

/-- The start of a run over an accepted operation: it is in progress, or a timeout of no duration has ended it (R146,
R155). -/
theorem Resting.blockInv_beginRun {s : State} (h : Resting s) (o : RunOf) (hconf : s.ctl.configured = true)
    (hrun : referenceRunnable s = true) (hport : PortInv s.port (o.wait (now s))) : BlockInv (beginRun o s) := by
  have hstarted : LookInv (waitFor (o.wait (now s)) (startTrigger s)) :=
    { port := hport
      channels := channelInv_startTrigger hconf (referencePlatform_of_runnable hrun)
      owners := ⟨h.owners.configured, h.owners.session, h.owners.stp_iff, h.owners.stp_idle⟩
      session := (sessionInv_of_noBringUp (o.wait_noBringUp _) ..).2 ⟨h.rest.state, h.rest.out, h.rest.held⟩
      runs := fun _ => ⟨o, now s, rfl⟩ }
  exact hstarted.blockInv_waitRun rfl

/-- An accepted operation that starts a run is in progress, and has written no response (R36, R44). -/
theorem portInv_accept (s : State) (o : RunOf) (t0 : Nat) : PortInv (accept s).port (o.wait t0) :=
  ⟨⟨fun _ => o.wait_ne_idle t0, fun _ => rfl⟩, Bool.noConfusion, Bool.noConfusion⟩

/-- Every operation accepted by a block at rest leaves the invariant. -/
theorem Resting.blockInv_exec {i : Instr} {s t : State} (h : Resting s) (he : exec i s = .next t) : BlockInv t := by
  have ha : Resting (accept s) := h.after_accept
  cases exec_cases he with
  | bringUp _ _ hd =>
    refine BlockInv.after_drain (LookInv.blockInv_waitHold ?_ rfl) hd
    exact h.lookInv_enterResetAsserted
  | shutDown => exact ha.after_shutDownBody.blockInv_succeed ..
  | writeRegister a v _ _ _ hv hrun hd =>
    have hprepared : Resting (prepareWrite a v (accept s)) :=
      ((ha.after_configureCommit hv).after_encodeBody a v).after_expandBody _
    exact BlockInv.after_drain (hprepared.blockInv_beginRun .writeRegister rfl hrun (portInv_accept s _ _)) hd
  | writeNotConfigured => exact ha.blockInv_raise _
  | configure _ hv => exact (ha.after_configureCommit hv).blockInv_succeed ..
  | notConfigured => exact ha.blockInv_raise _
  | encode a v => exact (ha.after_encodeBody a v).blockInv_succeed ..
  | expand m => exact (ha.after_expandBody m).blockInv_succeed ..
  | run _ _ hconf hrun hd => exact BlockInv.after_drain (ha.blockInv_beginRun .run hconf hrun (portInv_accept s _ _)) hd
  | illegalRun => exact ha.blockInv_raise _
  | halt => exact ha.after_haltAll.blockInv_succeed ..
  | validate => exact ha.blockInv_validateResponse

/-! ### Steps -/

/-- What a ready port makes of the word presented: nothing, an operation, or the response to a reserved word (R43,
R96). -/
theorem issue_cases {s t : State} (h : issue s = .next t) :
    (s.env.cmd = none ∧ t = s) ∨
    (∃ w i, s.env.cmd = some w ∧ decode w = .ok i ∧ exec i s = .next t) ∨
    (∃ op, t = illegalWord op s) := by
  unfold issue at h
  split at h
  · rename_i hnone
    cases h
    exact .inl ⟨hnone, rfl⟩
  · rename_i w hw
    split at h
    · rename_i i hi
      exact .inr (.inl ⟨w, i, hw, hi, h⟩)
    · rename_i op _
      cases h
      exact .inr (.inr ⟨op, rfl⟩)

theorem nextInstant_cases (s : State) :
    ∃ e es n, nextInstant s = { s with env := e, inputs := es, freeCount := n } := by
  unfold nextInstant
  split <;> exact ⟨_, _, _, rfl⟩

/-- Settles O51: a busy block drains its inputs, each look and each instant keeping the invariant; a ready one is at
rest, and every operation it can accept leaves the invariant. -/
theorem everyStepKeepsTheInvariant : Obligations.EveryStepKeepsTheInvariant := by
  unfold Obligations.EveryStepKeepsTheInvariant
  intro s t h hstep
  rcases step_cases hstep with ⟨_, hd⟩ | ⟨hready, _, u, hev, hissue⟩ | ⟨_, _, rfl⟩
  · refine BlockInv.after_drain ?_ hd
    rcases supply_cases s with hs | hs <;> rw [hs]
    · exact h
    · exact h.withEnvironment _ _
  · obtain ⟨e, es, n, hnext⟩ := nextInstant_cases s
    rw [hnext] at hev
    have hu : LookInv u := ((lookInv_of_blockInv (h.withEnvironment es n)).atInstant e).after_events hev
    obtain ⟨_, hflight, _⟩ := events_frame hev
    have hidle : u.inFlight = .idle := by
      by_contra hne
      exact Bool.false_ne_true (hready.symm.trans (h.busy_iff.2 (hflight ▸ hne)))
    rcases issue_cases hissue with ⟨_, rfl⟩ | ⟨_, _, _, _, hexec⟩ | ⟨op, rfl⟩
    · exact blockInv_of_waitInv hu (waitInv_of_idle hidle)
    · exact (hu.resting hidle).blockInv_exec hexec
    · exact (hu.resting hidle).after_accept.blockInv_raise _
  · exact blockInv_hardwareReset _

/-- Settles O52: the machine right after reset is a reset state. -/
theorem resetHasTheInvariant : Obligations.ResetHasTheInvariant := blockInv_hardwareReset State.reset

end Sys2Proof.Machine
end

section
/-! SUPPORT. What `ENCODE`, `EXPAND`, `HALT` and `SHUT_DOWN` leave (41_transaction_encoder.md R121, R131;
40_direction_expander.md R111; 42_bus_controller.md R156 to R159; 44_bringup_fsm.md R196). -/

namespace Sys2Proof.Machine

/-! ### `EXPAND` and `ENCODE` -/

theorem exec_expand (m : Mask16) (s : State) :
    exec (.expand m) s = .next (succeed .ok 0 (expandBody m (accept s))) := rfl

/-- Settles O11: every code bit is the mask bit of its cycle. -/
theorem expandStoresMaskAndCode : Obligations.ExpandStoresMaskAndCode := by
  unfold Obligations.ExpandStoresMaskAndCode
  intro m s
  exact ⟨_, exec_expand m s, succeed_responded .ok 0 _, rfl, rfl, rfl, rfl, expand16_getLsbD m, rfl, rfl, rfl, rfl, rfl,
    rfl, rfl⟩

theorem frame_toList (idle command value : Byte) :
    (frame idle command value).toList = [idle, command, command, command, value, idle, idle, idle] := rfl

/-- Settles O13: the writes are those of `encodeBody`, and the frame is written out cycle by cycle. -/
theorem encodeWritesTheTransaction : Obligations.EncodeWritesTheTransaction := by
  unfold Obligations.EncodeWritesTheTransaction
  intro a v s ha
  exact ⟨encoded a v s, exec_encode_of_le ha, succeed_responded .ok 0 _, rfl, rfl, rfl, rfl, frame_toList _ _ _, rfl,
    rfl, rfl, rfl, rfl, rfl, rfl, rfl, rfl, rfl⟩

/-- The direction code of a write (R126). -/
theorem expand16_driveMaskWrite : expand16 driveMaskWrite = 0x00003FFC#32 := by decide

/-- Settles O17: the buffers left hold the frame, the direction code of a write, and the default stop pattern. -/
theorem encodeThenExpandShowsTheWriteFrame : Obligations.EncodeThenExpandShowsTheWriteFrame := by
  unfold Obligations.EncodeThenExpandShowsTheWriteFrame
  intro a v s ha hpattern
  have hu := exec_expand driveMaskWrite (encoded a v s)
  generalize hufinal : succeed .ok 0 (expandBody driveMaskWrite (accept (encoded a v s))) = u at hu
  have hdata : u.buf.dataBuf = frame s.cfg.idleCode (commandByteOf a) v := by rw [← hufinal]; exact encoded_dataBuf
  have hdir : u.buf.dirBuf = 0x00003FFC#32 := by rw [← hufinal]; exact expand16_driveMaskWrite
  have hstp : u.buf.stpBuf = 0x00000020#32 := by rw [← hufinal]; exact (encoded_stpBuf (a := a) (v := v)).trans hpattern
  have hbytes := data_of_frame hdata
  have henables := enables_of_writeMask hdir
  have hstops := stop_of_defaultPattern hstp
  have hfirst := congrArg (List.map Prod.fst) henables
  have hsecond := congrArg (List.map Prod.snd) henables
  rw [List.map_map] at hbytes hstops
  rw [List.map_map, List.map_map] at hfirst hsecond
  exact ⟨_, u, exec_encode_of_le ha, hu, hbytes, hfirst, hsecond, hstops⟩

/-! ### Halting -/

/-- With the channels stopped the stop pin carries its static level (R41). -/
theorem stpPin_of_stopped {s : State} (h : s.ctl.running = false) : stpPin s = s.pins.stpLevel :=
  if_neg (by simp [h])

/-- Settles O28: halted channels are stopped with their data pins released, and such a state is left as it is. -/
theorem haltAllIsIdempotent : Obligations.HaltAllIsIdempotent := by
  unfold Obligations.HaltAllIsIdempotent
  intro s
  exact ⟨haltAll_of_released rfl rfl rfl, rfl, fun hr ⟨h0, h1⟩ => haltAll_of_released hr h0 h1⟩

/-- Settles O29: `HALT` responds over the halted channels. -/
theorem haltAlwaysStopsTheChannels : Obligations.HaltAlwaysStopsTheChannels := by
  unfold Obligations.HaltAlwaysStopsTheChannels
  intro s
  have hexec : exec .halt s = .next (succeed .ok 0 (haltAll (accept s))) := rfl
  exact ⟨_, hexec, succeed_responded .ok 0 _, rfl, rfl, stpPin_of_stopped rfl, rfl, rfl, rfl, rfl, rfl, rfl, rfl⟩

/-! ### `SHUT_DOWN` -/

/-- The state after `SHUT_DOWN`. -/
def shutDown (s : State) : State := succeed .ok 0 (shutDownBody (accept s))

theorem exec_shutDown (s : State) : exec .shutDown s = .next (shutDown s) := rfl

/-- The pins of the controller are freed, and every other pin keeps its owner. -/
theorem shutDown_owner_get (s : State) (p : Pin) : (shutDown s).owner.get p =
    if p ∈ Pin.dataPins ++ [.nxt, .stp] ∧ s.owner.get p = .controller then .free else s.owner.get p := by
  rw [shutDown, succeed_owner, shutDownBody_owner, OwnerMap.get_release, accept_owner]

/-- Settles O38: `SHUT_DOWN` visits the pins that the controller can own, and no pin of the session or the clock. -/
theorem shutDownLeavesThePinsIdle : Obligations.ShutDownLeavesThePinsIdle := by
  unfold Obligations.ShutDownLeavesThePinsIdle
  intro s
  have hother (p : Pin) (hp : p ∉ Pin.dataPins ++ [.nxt, .stp]) : (shutDown s).owner.get p = s.owner.get p := by
    rw [shutDown_owner_get, if_neg fun h => hp h.1]
  refine ⟨_, exec_shutDown s, succeed_responded .ok 0 _, rfl, fun p hp => ?_, hother .dir (by decide),
    hother .reset (by decide), hother .clk (by decide), rfl, rfl, rfl, rfl, rfl, rfl, rfl⟩
  rw [shutDown_owner_get]
  exact if_congr (and_iff_right hp) rfl rfl

/-- After `SHUT_DOWN` the controller owns no pin it could free again. -/
theorem shutDown_owner_twice (s : State) : (shutDown (shutDown s)).owner = (shutDown s).owner := by
  apply OwnerMap.ext_get
  intro p
  rw [shutDown_owner_get (shutDown s), if_neg]
  rintro ⟨hp, howner⟩
  rw [shutDown_owner_get] at howner
  split at howner
  · cases howner
  · rename_i hnot
    exact hnot ⟨hp, howner⟩

/-- Settles O39: a second `SHUT_DOWN` finds the channels stopped, nothing configured and no pin to free. -/
theorem shutDownTwiceEqualsOnce : Obligations.ShutDownTwiceEqualsOnce := by
  unfold Obligations.ShutDownTwiceEqualsOnce
  intro s
  exact ⟨_, _, exec_shutDown s, exec_shutDown _, ⟨rfl, rfl, rfl, rfl, rfl, rfl, shutDown_owner_twice s, rfl, rfl⟩, rfl,
    rfl, rfl, rfl, rfl⟩

end Sys2Proof.Machine
end

section
/-! SUPPORT. The command port (10_state.md R36, R43; 60_exceptions.md R231): the word presented to a ready port is run,
and the word presented to a busy one makes no difference (93_implementation_defined.md U13). -/

namespace Sys2Proof.Machine

/-! ### A ready port -/

theorem issue_of_decoded {s : State} {w : Cmd20} {i : Instr} (hc : s.env.cmd = some w) (hi : decode w = .ok i) :
    issue s = exec i s := by
  simp [issue, hc, hi]

/-- Settles O50: with the channels stopped the events of the instant are its halt request, and then the port runs the
instruction. -/
theorem stepRunsTheDecodedInstr : Obligations.StepRunsTheDecodedInstr := by
  unfold Obligations.StepRunsTheDecodedInstr
  intro s e rest w i hb hr hin he hc hi _
  have hev : events { s with env := e, inputs := rest } = .next (haltEvent { s with env := e, inputs := rest }) :=
    events_of_not_running hr
  rw [step_ready hb hin he, hev, andThen_next, issue_of_decoded (by simpa using hc) hi]
  rfl

/-! ### The word presented, through a look and an instant -/

/-- The state with another word presented at the present instant. -/
def State.withCmd (c : Option Cmd20) (s : State) : State := { s with env := { s.env with cmd := c } }

theorem State.withCmd_self (s : State) : s.withCmd s.env.cmd = s := rfl

theorem agreeButTheCommand_withCmd (c : Option Cmd20) (s : State) : AgreeButTheCommand s (s.withCmd c) := rfl

section WithCmd

variable (c : Option Cmd20) (s : State)

theorem pollDir_withCmd : pollDir (s.withCmd c) = (pollDir s).withCmd c := by
  unfold pollDir
  simp only [apply_ite (State.withCmd c)]
  rfl

theorem waitSettle_withCmd : waitSettle (s.withCmd c) = (waitSettle s).withCmd c := by
  unfold waitSettle
  rw [apply_ite (State.withCmd c), ← pollDir_withCmd]
  rfl

theorem waitHold_withCmd : waitHold (s.withCmd c) = (waitHold s).withCmd c := by
  unfold waitHold
  rw [apply_ite (State.withCmd c), ← waitSettle_withCmd]
  rfl

theorem finishRun_withCmd (o : RunOf) : finishRun o (s.withCmd c) = (finishRun o s).withCmd c := by
  cases o with
  | run => rfl
  | writeRegister =>
    simp only [finishRun, validateResponse, apply_ite (State.withCmd c)]
    rfl

theorem waitRun_withCmd (o : RunOf) (t0 : Nat) : waitRun o t0 (s.withCmd c) = (waitRun o t0 s).withCmd c := by
  unfold waitRun
  rw [apply_ite (State.withCmd c), ← finishRun_withCmd]
  refine if_congr Iff.rfl ?_ rfl
  have hcfg : (s.withCmd c).cfg = s.cfg := rfl
  rw [hcfg]
  cases s.cfg.runTimeout with
  | none => rfl
  | some t =>
    exact (apply_ite (State.withCmd c) (t ≤ elapsedSince (now s) t0)
      (raise .transactionTimeout (haltAll s)) s).symm

theorem advance_withCmd : advance (s.withCmd c) = (advance s).withCmd c := by
  have hf : (s.withCmd c).inFlight = s.inFlight := rfl
  unfold advance
  rw [hf]
  cases s.inFlight with
  | idle => rfl
  | bringUpHold => exact waitHold_withCmd c s
  | bringUpSettle => exact waitSettle_withCmd c s
  | bringUpPoll => exact pollDir_withCmd c s
  | run t0 => exact waitRun_withCmd c s .run t0
  | writeRun t0 => exact waitRun_withCmd c s .writeRegister t0

/-- An outcome with another word presented, where it is a state. -/
def Result.withCmd (r : Result) : Result := andThen r fun t => .next (t.withCmd c)

theorem clockEvent_withCmd : clockEvent (s.withCmd c) = Result.withCmd c (clockEvent s) := by
  have hengine (n : Bool) : engineStep n (s.withCmd c) = Result.withCmd c (engineStep n s) := by
    unfold engineStep
    simp only [apply_dite (Result.withCmd c)]
    rfl
  unfold clockEvent
  rw [apply_ite (Result.withCmd c), ← hengine]
  rfl

theorem events_withCmd : events (s.withCmd c) = Result.withCmd c (events s) := by
  have hhalt (t : State) : haltEvent (t.withCmd c) = (haltEvent t).withCmd c := by
    unfold haltEvent
    rw [apply_ite (State.withCmd c)]
    rfl
  unfold events
  rw [clockEvent_withCmd]
  cases clockEvent s with
  | next t => exact congrArg _ (hhalt t)
  | fault _ => rfl
  | refused _ => rfl

/-- An instant with another word is the instant, but for the word. -/
theorem tick_withCmd (e : Instant) : tick { e with cmd := c } s = Result.withCmd c (tick e s) := by
  have hev : events { s with env := { e with cmd := c } } = Result.withCmd c (events { s with env := e }) :=
    events_withCmd c { s with env := e }
  unfold tick
  rw [hev, apply_ite (Result.withCmd c)]
  cases events { s with env := e } with
  | next t => exact if_congr Iff.rfl (congrArg _ (advance_withCmd c t)) rfl
  | fault _ => rfl
  | refused _ => rfl

/-- A look of the block's own sees no word (log entry 15). -/
theorem ownLook_withCmd : ownLook (s.withCmd c) = ownLook s := by
  rw [ownLook_eq, ownLook_eq]
  rfl

/-- After the looks due before an instant the states are the same, or differ in the word still. -/
theorem catchUp_withCmd (e : Instant) : ∃ d, catchUp e (s.withCmd c) = (catchUp e s).withCmd d := by
  cases hdue : lookDue e s with
  | false =>
    have hdue' : lookDue e (s.withCmd c) = false := hdue
    exact ⟨c, by rw [catchUp_of_not_due hdue, catchUp_of_not_due hdue']⟩
  | true =>
    have hdue' : lookDue e (s.withCmd c) = true := hdue
    exact ⟨_, by rw [catchUp_of_due hdue, catchUp_of_due hdue', ownLook_withCmd]; exact (State.withCmd_self _).symm⟩

end WithCmd

/-! ### The word presented, through an operation -/

/-- Two outcomes of an operation in progress: states that are the same but for the word presented, or one fault. -/
inductive SameButTheWord : Result → Result → Prop
  | next (t : State) (c : Option Cmd20) : SameButTheWord (.next t) (.next (t.withCmd c))
  | fault (x : Fault) : SameButTheWord (.fault x) (.fault x)

/-- The engine has a rule for every cycle or faults: it refuses nothing. -/
theorem engineStep_ne_refused (n : Bool) (s : State) (x : Refusal) : engineStep n s ≠ .refused x := by
  unfold engineStep
  split
  · split <;> nofun
  · nofun

theorem andThen_ne_refused {r : Result} {f : State → Result} {x : Refusal} (hr : r ≠ .refused x)
    (hf : ∀ t, f t ≠ .refused x) : andThen r f ≠ .refused x := by
  cases r with
  | next t => exact hf t
  | fault _ => nofun
  | refused _ => exact hr

theorem tick_ne_refused (e : Instant) (s : State) (x : Refusal) : tick e s ≠ .refused x := by
  have hclock (u : State) : clockEvent u ≠ .refused x := by
    unfold clockEvent
    split
    · exact engineStep_ne_refused _ u x
    · nofun
  unfold tick
  split
  · exact andThen_ne_refused (andThen_ne_refused (hclock _) fun _ => nofun) fun _ => nofun
  · nofun

/-- What follows an instant does not tell the two words apart: an instant to come presents its own. -/
theorem sameButTheWord_drain (es : List Instant) (s : State) (c : Option Cmd20) :
    SameButTheWord (drain es s) (drain es (s.withCmd c)) := by
  induction es generalizing s c with
  | nil => exact .next { s with inputs := [] } c
  | cons e es ih =>
    obtain ⟨d, hd⟩ := catchUp_withCmd c s e
    unfold drain
    rw [hd]
    cases hb : (catchUp e s).port.busy with
    | false =>
      rw [if_neg Bool.false_ne_true, if_neg (by simp [State.withCmd, hb])]
      exact .next { catchUp e s with inputs := e :: es } d
    | true =>
      rw [if_pos rfl, if_pos (show ((catchUp e s).withCmd d).port.busy = true from hb)]
      have htick : tick e ((catchUp e s).withCmd d) = tick e (catchUp e s) := rfl
      rw [htick]
      cases ht : tick e (catchUp e s) with
      | next u => exact ih u u.env.cmd
      | fault x => exact .fault x
      | refused x => exact absurd ht (tick_ne_refused e _ x)

/-- A busy port over a list of instants: the word of the first one makes no difference to what it leads to, where the
operation is in progress when it comes. -/
theorem sameButTheWord_of_busy {e : Instant} {s : State} (hb : (catchUp e s).port.busy = true) (es : List Instant)
    (c : Option Cmd20) : SameButTheWord (drain (e :: es) s) (drain ({ e with cmd := c } :: es) s) := by
  have hcatch : catchUp { e with cmd := c } s = catchUp e s := rfl
  unfold drain
  rw [hcatch, if_pos hb, if_pos hb, tick_withCmd c (catchUp e s)]
  cases ht : tick e (catchUp e s) with
  | next u => exact sameButTheWord_drain es u c
  | fault x => exact .fault x
  | refused x => exact absurd ht (tick_ne_refused e _ x)

/-- Where a wait ends the operation before the instant, the instant is still to come, with its word. -/
theorem drain_of_ended {e : Instant} {s : State} (hb : (catchUp e s).port.busy = false) (es : List Instant) :
    drain (e :: es) s = .next { catchUp e s with inputs := e :: es } :=
  if_neg (by simp [hb])

/-- Settles O49: a step of a busy block drains its instants, and neither a look nor an instant reads the word. -/
theorem busyPortAcceptsNothing : Obligations.BusyPortAcceptsNothing := by
  unfold Obligations.BusyPortAcceptsNothing
  refine ⟨fun s e rest c hb hin => ?_, fun e c s t ht => by rw [tick_withCmd c s, ht]; rfl⟩
  rw [step_busy hb hin, step_of_busy hb]
  cases hcatch : (catchUp e s).port.busy with
  | true =>
    have hsame := sameButTheWord_of_busy hcatch rest c
    generalize drain (e :: rest) s = r at hsame ⊢
    generalize drain ({ e with cmd := c } :: rest) s = r' at hsame ⊢
    simp only [if_true]
    cases hsame with
    | next t d =>
      refine ⟨fun t' h => ?_, by simp, by simp⟩
      obtain rfl : t = t' := Host.Outcome.next.inj h
      exact ⟨_, rfl, agreeButTheCommand_withCmd d t⟩
    | fault x => exact ⟨by simp, fun _ h => h, by simp⟩
  | false =>
    have hended' : drain ({ e with cmd := c } :: rest) s =
        .next { catchUp e s with inputs := { e with cmd := c } :: rest } := drain_of_ended (by exact hcatch) rest
    rw [drain_of_ended hcatch, hended']
    simp only [Bool.false_eq_true, if_false]
    refine ⟨fun t h => ?_, by simp, by simp⟩
    obtain rfl := Host.Outcome.next.inj h
    exact ⟨_, rfl, rfl, rfl⟩

end Sys2Proof.Machine
end

section
/-! SUPPORT. What every step keeps (70_reset_and_hazards.md R260, R268; 44_bringup_fsm.md R191; 20_memory.md R63,
R73): what a look and an instant leave as it was, carried through the draining of an operation to every operation. -/

namespace Sys2Proof.Machine

/-! ### One look -/

/-- What no look at a wait changes: the parameters, the transaction registers and the buffers; and it starts no
channel. -/
structure KeepsStores (s t : State) : Prop where
  cfg : t.cfg = s.cfg
  tx : t.tx = s.tx
  buf : t.buf = s.buf
  stopped : s.ctl.running = false → t.ctl.running = false

theorem KeepsStores.trans {s t u : State} (h : KeepsStores s t) (h' : KeepsStores t u) : KeepsStores s u :=
  ⟨h'.cfg.trans h.cfg, h'.tx.trans h.tx, h'.buf.trans h.buf, h'.stopped ∘ h.stopped⟩

theorem keepsStores_pollDir (s : State) : KeepsStores s (pollDir s) := by
  unfold pollDir
  split
  · split <;> exact ⟨rfl, rfl, rfl, id⟩
  · exact ⟨rfl, rfl, rfl, id⟩

theorem keepsStores_waitSettle (s : State) : KeepsStores s (waitSettle s) := by
  unfold waitSettle
  split
  · exact KeepsStores.trans (t := enterAwaitingClockStable s) ⟨rfl, rfl, rfl, id⟩ (keepsStores_pollDir _)
  · exact ⟨rfl, rfl, rfl, id⟩

theorem keepsStores_waitHold (s : State) : KeepsStores s (waitHold s) := by
  unfold waitHold
  split
  · exact KeepsStores.trans (t := enterResetReleased s) ⟨rfl, rfl, rfl, id⟩ (keepsStores_waitSettle _)
  · exact ⟨rfl, rfl, rfl, id⟩

/-- What a look can do outside `BRING_UP`: nothing, or a response over the halted channels. -/
theorem advance_of_noBringUp {s : State} (hf : s.inFlight.noBringUp) :
    advance s = s ∨ ∃ c st i w, advance s = writeResponse c st i w (haltAll s) := by
  have hrun {o : RunOf} {t0 : Nat} (ho : s.inFlight = o.wait t0) :
      advance s = s ∨ ∃ c st i w, advance s = writeResponse c st i w (haltAll s) := by
    rw [advance_of_run ho]
    rcases waitRun_cases o t0 s with ⟨_, h⟩ | ⟨c, st, i, w, h, _⟩
    · exact .inl h
    · exact .inr ⟨c, st, i, w, h⟩
  obtain ⟨hhold, hsettle, hpoll⟩ := hf
  cases hflight : s.inFlight with
  | idle => exact .inl (by simp [advance, hflight])
  | bringUpHold => exact absurd hflight hhold
  | bringUpSettle => exact absurd hflight hsettle
  | bringUpPoll => exact absurd hflight hpoll
  | run t0 => exact hrun (o := .run) hflight
  | writeRun t0 => exact hrun (o := .writeRegister) hflight

theorem keepsStores_advance (s : State) : KeepsStores s (advance s) := by
  have hother (hf : s.inFlight.noBringUp) : KeepsStores s (advance s) := by
    rcases advance_of_noBringUp hf with h | ⟨_, _, _, _, h⟩ <;> rw [h]
    · exact ⟨rfl, rfl, rfl, id⟩
    · exact ⟨rfl, rfl, rfl, fun _ => rfl⟩
  by_cases hhold : s.inFlight = .bringUpHold
  · rw [advance_of_hold hhold]; exact keepsStores_waitHold s
  by_cases hsettle : s.inFlight = .bringUpSettle
  · rw [advance_of_settle hsettle]; exact keepsStores_waitSettle s
  by_cases hpoll : s.inFlight = .bringUpPoll
  · rw [advance_of_poll hpoll]; exact keepsStores_pollDir s
  · exact hother ⟨hhold, hsettle, hpoll⟩

theorem keepsStores_ownLook (s : State) : KeepsStores s (ownLook s) := by
  rw [ownLook_eq]
  obtain ⟨hcfg, htx, hbuf, hstopped⟩ := keepsStores_advance { s with env := held (lookTime s) s.env }
  exact ⟨hcfg, htx, hbuf, hstopped⟩

/-! ### One instant -/

/-- The events of an instant write no buffer but the capture (R73). -/
theorem events_buf {s t : State} (h : events s = .next t) :
    t.buf.dataBuf = s.buf.dataBuf ∧ t.buf.dirBuf = s.buf.dirBuf ∧ t.buf.stpBuf = s.buf.stpBuf := by
  obtain ⟨u, hclock, hhalt⟩ := events_cases h
  have hu : u.buf.dataBuf = s.buf.dataBuf ∧ u.buf.dirBuf = s.buf.dirBuf ∧ u.buf.stpBuf = s.buf.stpBuf := by
    rcases hclock with ⟨_, _, hstep⟩ | ⟨_, rfl⟩
    · obtain ⟨_, ⟨_, _, _, rfl⟩ | ⟨_, rfl⟩⟩ := engineStep_cases hstep <;> exact ⟨rfl, rfl, rfl⟩
    · exact ⟨rfl, rfl, rfl⟩
  rcases hhalt with ⟨_, rfl⟩ | ⟨_, rfl⟩ <;> exact hu

/-- An instant short of a hardware reset is its events and a look. -/
theorem tick_eq_next {e : Instant} {s t : State} (he : e.rstN = true) (h : tick e s = .next t) :
    ∃ u, events { s with env := e } = .next u ∧ t = advance u := by
  rcases tick_cases h with ⟨hreset, _⟩ | ⟨_, hu⟩
  · exact absurd (hreset.symm.trans he) Bool.false_ne_true
  · exact hu

/-- Settles O27: the events write the capture alone, and the look writes no buffer. -/
theorem aRunWritesOnlyTheCapture : Obligations.ARunWritesOnlyTheCapture := by
  unfold Obligations.ARunWritesOnlyTheCapture
  intro e s t _ he ht
  obtain ⟨u, hev, rfl⟩ := tick_eq_next he ht
  obtain ⟨hdata, hdir, hstp⟩ := events_buf hev
  obtain ⟨_, _, _, _, _, _, htx, _⟩ := events_frame hev
  obtain ⟨_, htx', hbuf, _⟩ := keepsStores_advance u
  rw [hbuf]
  exact ⟨hdata, hdir, hstp, htx'.trans htx⟩

/-! ### The parameters -/

theorem tick_cfg {e : Instant} {s t : State} (h : tick e s = .next t) : t.cfg = s.cfg := by
  rcases tick_cases h with ⟨_, rfl⟩ | ⟨_, u, hev, rfl⟩
  · rfl
  · obtain ⟨_, _, hcfg, _⟩ := events_frame hev
    exact (keepsStores_advance u).cfg.trans hcfg

theorem drain_cfg {es : List Instant} {s t : State} (h : drain es s = .next t) : t.cfg = s.cfg :=
  drain_keeps (fun u => u.cfg = s.cfg) (fun _ _ hu => hu) (fun _ _ _ _ hu _ ht => (tick_cfg ht).trans hu)
    (fun u hu _ => (keepsStores_ownLook u).cfg.trans hu) rfl h

theorem exec_cfg {i : Instr} {s t : State} (h : exec i s = .next t) : t.cfg = s.cfg := by
  cases exec_cases h with
  | bringUp _ _ hd => exact (drain_cfg hd).trans (keepsStores_waitHold _).cfg
  | writeRegister a v _ _ _ _ _ hd =>
    obtain ⟨_, _, _, hcfg, _⟩ := beginRun_frame .writeRegister (prepareWrite a v (accept s))
    exact (drain_cfg hd).trans hcfg
  | run _ _ _ _ hd =>
    obtain ⟨_, _, _, hcfg, _⟩ := beginRun_frame .run (accept s)
    exact (drain_cfg hd).trans hcfg
  | validate =>
    obtain ⟨hcfg, _⟩ := validateResponse_onlyResponseDiffers (accept s)
    exact hcfg
  | shutDown | writeNotConfigured | configure | notConfigured | encode | expand | illegalRun | halt => rfl

/-- Settles O48: neither an instant nor an operation writes the parameters. -/
theorem noStepChangesTheParameters : Obligations.NoStepChangesTheParameters := by
  unfold Obligations.NoStepChangesTheParameters
  intro s t h
  obtain ⟨e, es, n, hnext⟩ := nextInstant_cases s
  rcases step_cases h with ⟨_, hd⟩ | ⟨_, _, u, hev, hissue⟩ | ⟨_, _, rfl⟩
  · have hcfg : (supply s).cfg = s.cfg := by rcases supply_cases s with hs | hs <;> rw [hs]
    exact (drain_cfg hd).trans hcfg
  · rw [hnext] at hev
    obtain ⟨_, _, hcfg, _⟩ := events_frame hev
    rcases issue_cases hissue with ⟨_, rfl⟩ | ⟨_, _, _, _, hexec⟩ | ⟨op, rfl⟩
    · exact hcfg
    · exact (exec_cfg hexec).trans hcfg
    · exact hcfg
  · rw [hnext]; rfl

/-! ### The session -/

/-- The block is outside `BRING_UP`, with the session `n`. -/
def HasSession (n : Session) (s : State) : Prop := s.inFlight.noBringUp ∧ s.session = n

theorem HasSession.after_advance {n : Session} {s : State} (h : HasSession n s) : HasSession n (advance s) := by
  obtain ⟨hf, hn⟩ := h
  rcases advance_of_noBringUp hf with ha | ⟨_, _, _, _, ha⟩ <;> rw [ha]
  · exact ⟨hf, hn⟩
  · exact ⟨noBringUp_idle, hn⟩

/-- Outside `BRING_UP` an operation in progress keeps the session, short of a hardware reset. -/
theorem HasSession.after_drain {n : Session} {es : List Instant} {s t : State} (h : HasSession n s)
    (hrst : ∀ x ∈ es, x.rstN = true) (hd : drain es s = .next t) : t.session = n := by
  have htick (e : Instant) (he : e.rstN = true) (u v : State) (hu : HasSession n u) (hv : tick e u = .next v) :
      HasSession n v := by
    obtain ⟨w, hev, rfl⟩ := tick_eq_next he hv
    obtain ⟨hsession, hflight, _⟩ := events_frame hev
    exact HasSession.after_advance ⟨hflight ▸ hu.1, hsession.trans hu.2⟩
  have hlook (u : State) (hu : HasSession n u) : HasSession n (ownLook u) := by
    rw [ownLook_eq]
    exact HasSession.after_advance hu
  exact (drain_keeps (HasSession n) (fun _ _ hu => hu) (fun e he u v hu _ => htick e (hrst e he) u v hu)
    (fun u hu _ => hlook u hu) h hd).2

theorem hasSession_beginRun (o : RunOf) (s : State) : HasSession s.session (beginRun o s) := by
  obtain ⟨hflight, hsession, _⟩ := beginRun_frame o s
  refine ⟨?_, hsession⟩
  rcases hflight with hf | hf <;> rw [hf]
  · exact o.wait_noBringUp _
  · exact noBringUp_idle

theorem exec_session {i : Instr} {s t : State} (hi : i ≠ .bringUp) (hrst : ∀ x ∈ s.inputs, x.rstN = true)
    (h : exec i s = .next t) : t.session = s.session := by
  cases exec_cases h with
  | bringUp => exact absurd rfl hi
  | writeRegister a v _ _ _ _ _ hd =>
    exact HasSession.after_drain (hasSession_beginRun .writeRegister (prepareWrite a v (accept s))) hrst hd
  | run _ _ _ _ hd => exact HasSession.after_drain (hasSession_beginRun .run (accept s)) hrst hd
  | validate =>
    obtain ⟨_, hsession, _⟩ := validateResponse_onlyResponseDiffers (accept s)
    exact hsession
  | shutDown | writeNotConfigured | configure | notConfigured | encode | expand | illegalRun | halt => rfl

/-- Settles O46: outside `BRING_UP` neither an instant nor an operation writes the session. -/
theorem onlyBringUpChangesTheSession : Obligations.OnlyBringUpChangesTheSession := by
  unfold Obligations.OnlyBringUpChangesTheSession
  refine ⟨fun i s t => exec_session, fun s t e rest hin hrst hhold hsettle hpoll hcmd hstep => ?_⟩
  rw [hin] at hrst
  cases hb : s.port.busy with
  | true =>
    rw [step_busy hb hin] at hstep
    exact HasSession.after_drain ⟨⟨hhold, hsettle, hpoll⟩, rfl⟩ hrst hstep
  | false =>
    rw [step_ready hb hin (hrst e List.mem_cons_self), andThen_eq_next] at hstep
    obtain ⟨u, hev, hissue⟩ := hstep
    obtain ⟨hsession, _, _, _, henv, hinputs, _⟩ := events_frame hev
    rcases issue_cases hissue with ⟨_, rfl⟩ | ⟨w, i, hw, hi, hexec⟩ | ⟨op, rfl⟩
    · exact hsession
    · have hother : i ≠ .bringUp := by
        rintro rfl
        exact hcmd hb w ((congrArg Instant.cmd henv).symm.trans hw) hi
      have hrest : ∀ x ∈ u.inputs, x.rstN = true := by
        rw [hinputs]
        exact fun x hx => hrst x (List.mem_cons_of_mem _ hx)
      exact (exec_session hother hrest hexec).trans hsession
    · exact hsession

end Sys2Proof.Machine
end

section
/-! SUPPORT. The writers of the buffers (20_memory.md R63), and the hardware reset at any instant
(70_reset_and_hazards.md R260). -/

namespace Sys2Proof.Machine

/-! ### The writers of the buffers -/

/-- With the channels stopped an operation in progress writes neither a buffer nor a transaction register, short of a
hardware reset. -/
theorem drain_stores_of_stopped {es : List Instant} {s t : State} (hr : s.ctl.running = false)
    (hrst : ∀ x ∈ es, x.rstN = true) (hd : drain es s = .next t) : t.buf = s.buf ∧ t.tx = s.tx := by
  have hlook (u v : State) (h : KeepsStores u v) (hu : u.ctl.running = false ∧ u.buf = s.buf ∧ u.tx = s.tx) :
      v.ctl.running = false ∧ v.buf = s.buf ∧ v.tx = s.tx := by
    obtain ⟨hstop, hbuf, htx⟩ := hu
    exact ⟨h.stopped hstop, h.buf.trans hbuf, h.tx.trans htx⟩
  have htick (e : Instant) (he : e.rstN = true) (u v : State)
      (hu : u.ctl.running = false ∧ u.buf = s.buf ∧ u.tx = s.tx) (hv : tick e u = .next v) :
      v.ctl.running = false ∧ v.buf = s.buf ∧ v.tx = s.tx := by
    obtain ⟨w, hev, rfl⟩ := tick_eq_next he hv
    rw [events_of_not_running (s := { u with env := e }) hu.1] at hev
    cases hev
    refine hlook _ _ (keepsStores_advance _) ⟨?_, by simpa using hu.2⟩
    unfold haltEvent
    split
    · rfl
    · exact hu.1
  exact (drain_keeps (fun u => u.ctl.running = false ∧ u.buf = s.buf ∧ u.tx = s.tx) (fun _ _ hu => hu)
    (fun e he u v hu _ => htick e (hrst e he) u v hu) (fun u hu _ => hlook _ _ (keepsStores_ownLook u) hu)
    ⟨hr, rfl, rfl⟩ hd).2

/-- Two states differ in the capture at most, of the buffers and the transaction registers. -/
structure KeepsFrame (s t : State) : Prop where
  dataBuf : t.buf.dataBuf = s.buf.dataBuf
  dirBuf : t.buf.dirBuf = s.buf.dirBuf
  stpBuf : t.buf.stpBuf = s.buf.stpBuf
  tx : t.tx = s.tx

theorem KeepsFrame.trans {s t u : State} (h : KeepsFrame s t) (h' : KeepsFrame t u) : KeepsFrame s u :=
  ⟨h'.dataBuf.trans h.dataBuf, h'.dirBuf.trans h.dirBuf, h'.stpBuf.trans h.stpBuf, h'.tx.trans h.tx⟩

theorem KeepsStores.keepsFrame {s t : State} (h : KeepsStores s t) : KeepsFrame s t :=
  ⟨by rw [h.buf], by rw [h.buf], by rw [h.buf], h.tx⟩

/-- Whatever operation is in progress, short of a hardware reset it writes no buffer but the capture (R73). -/
theorem drain_keepsFrame {es : List Instant} {s t : State} (hrst : ∀ x ∈ es, x.rstN = true)
    (hd : drain es s = .next t) : KeepsFrame s t := by
  have htick (e : Instant) (he : e.rstN = true) (u v : State) (hv : tick e u = .next v) : KeepsFrame u v := by
    obtain ⟨w, hev, rfl⟩ := tick_eq_next he hv
    obtain ⟨hdata, hdir, hstp⟩ := events_buf hev
    obtain ⟨_, _, _, _, _, _, htx, _⟩ := events_frame hev
    exact KeepsFrame.trans (t := w) ⟨hdata, hdir, hstp, htx⟩ (keepsStores_advance w).keepsFrame
  exact drain_keeps (KeepsFrame s) (fun _ _ hu => ⟨hu.dataBuf, hu.dirBuf, hu.stpBuf, hu.tx⟩)
    (fun e he u v hu _ hv => hu.trans (htick e (hrst e he) u v hv))
    (fun u hu _ => hu.trans (keepsStores_ownLook u).keepsFrame) ⟨rfl, rfl, rfl, rfl⟩ hd

/-- Settles O47: `BRING_UP` writes no buffer, `RUN` the capture alone, `ENCODE` and `EXPAND` their own, and the rest
write none; `WRITE_REGISTER` is in every list of writers. -/
theorem eachBufferHasItsWriters : Obligations.EachBufferHasItsWriters := by
  unfold Obligations.EachBufferHasItsWriters
  intro i s t hrst h
  cases exec_cases h with
  | bringUp _ _ hd =>
    obtain ⟨hbuf, htx⟩ := drain_stores_of_stopped ((keepsStores_waitHold _).stopped rfl) hrst hd
    obtain ⟨_, htx', hbuf', _⟩ := keepsStores_waitHold (enterResetAsserted (accept s))
    rw [hbuf, hbuf', htx, htx']
    exact ⟨fun _ => ⟨rfl, rfl⟩, fun _ => rfl, fun _ => rfl, fun _ => rfl⟩
  | writeRegister a v => exact
      ⟨fun h => absurd rfl (h a v).2, fun h => absurd rfl (h 0 a v).2, fun h => absurd rfl (h a v).2,
        fun h => absurd rfl (h 0 a v).2.2⟩
  | writeNotConfigured | shutDown | configure | notConfigured | illegalRun | halt => exact
      ⟨fun _ => ⟨rfl, rfl⟩, fun _ => rfl, fun _ => rfl, fun _ => rfl⟩
  | encode a v => exact
      ⟨fun h => absurd rfl (h a v).1, fun _ => rfl, fun _ => rfl, fun h => absurd rfl (h 0 a v).1⟩
  | expand m => exact
      ⟨fun _ => ⟨rfl, rfl⟩, fun h => absurd rfl (h m 0 0).1, fun _ => rfl, fun h => absurd rfl (h m 0 0).2.1⟩
  | run _ _ _ _ hd =>
    obtain ⟨_, _, _, _, _, htx, _, hdata, hdir, hstp⟩ := beginRun_frame .run (accept s)
    have hframe : KeepsFrame s t := KeepsFrame.trans ⟨hdata, hdir, hstp, htx⟩ (drain_keepsFrame hrst hd)
    exact ⟨fun _ => ⟨hframe.dataBuf, hframe.stpBuf⟩, fun _ => hframe.dirBuf, fun h => absurd rfl (h 0 0).1,
      fun _ => hframe.tx⟩
  | validate =>
    obtain ⟨_, _, htx, hbuf, _⟩ := validateResponse_onlyResponseDiffers (accept s)
    rw [hbuf, htx]
    exact ⟨fun _ => ⟨rfl, rfl⟩, fun _ => rfl, fun _ => rfl, fun _ => rfl⟩

/-! ### The hardware reset -/

/-- A hardware reset leaves the stated values, whatever the block was doing. -/
theorem afterReset_hardwareReset (s : State) : AfterReset (hardwareReset s) := resetLeavesTheStatedValues

/-- An instant of reset resets the block. -/
theorem tick_of_reset {e : Instant} (he : e.rstN = false) (s : State) :
    tick e s = .next (hardwareReset { s with env := e }) :=
  if_neg (by simp [he])

theorem catchUp_cfg (e : Instant) (s : State) : (catchUp e s).cfg = s.cfg :=
  catchUp_keeps (fun u => u.cfg = s.cfg) (fun u hu _ => (keepsStores_ownLook u).cfg.trans hu) rfl

/-- Within an operation that is in progress when the reset comes, the instants after it are left alone. -/
theorem drain_of_reset {e : Instant} {s : State} (he : e.rstN = false) (hb : (catchUp e s).port.busy = true)
    (rest : List Instant) :
    drain (e :: rest) s = .next { hardwareReset { catchUp e s with env := e } with inputs := rest } := by
  rw [drain, if_pos hb, tick_of_reset he, andThen_next, drain_idle rfl]

/-- Settles O54: an instant of reset resets a ready block, and an operation in progress; an operation that a wait ends
before it leaves a ready block with the instant still to come. -/
theorem hardwareResetAtAnyInstant : Obligations.HardwareResetAtAnyInstant := by
  unfold Obligations.HardwareResetAtAnyInstant
  intro s e he
  refine ⟨⟨_, tick_of_reset he s, afterReset_hardwareReset _, rfl, rfl, rfl⟩, fun rest hin => ⟨?_, fun hb hcatch => ?_⟩⟩
  · cases hb : s.port.busy with
    | false => exact fun _ => ⟨_, step_reset hb hin he, afterReset_hardwareReset _, rfl, rfl, rfl⟩
    | true =>
      intro hcatch
      have hbusy : (catchUp e s).port.busy = true := hcatch.resolve_left (by simp)
      have hstep := (step_busy hb hin).trans (drain_of_reset he hbusy rest)
      exact ⟨_, hstep, afterReset_hardwareReset (catchUp e s), catchUp_cfg e s, rfl, rfl⟩
  · have hended := (step_busy hb hin).trans (drain_of_ended hcatch rest)
    have hreset := step_reset (s := { catchUp e s with inputs := e :: rest }) hcatch rfl he
    exact ⟨_, _, hended, hcatch, rfl, hreset, afterReset_hardwareReset (catchUp e s), catchUp_cfg e s, rfl, rfl⟩

end Sys2Proof.Machine
end

section
/-! SUPPORT. `RUN` over a list of instants (42_bus_controller.md R146 to R162): its last cycle, a halt request, the end
of `RUN_TIMEOUT` and a PHY clock that stops, each from a run in progress. -/

namespace Sys2Proof.Machine

/-! ### One engine step -/

/-- Settles O26: the step presents the next cycle, or halts at the limit; both capture the sample first. -/
theorem engineStepShiftsOneCycle : Obligations.EngineStepShiftsOneCycle := by
  unfold Obligations.EngineStepShiftsOneCycle
  intro s n h8 hcyc
  have hnext : (BitVec.ofNat 4 (s.ctl.cyc.toNat + 1)).toNat = s.ctl.cyc.toNat + 1 := cyc_succ_toNat (by omega)
  have hsample (i : Nat) (hi : i < 32) := writeBit_getLsbD s.buf.capBuf s.ctl.cyc.toNat n i hi
  rcases Nat.lt_or_eq_of_le (Nat.succ_le_of_lt hcyc) with hinner | hlast
  · obtain ⟨j, hj⟩ : ∃ j : Fin 8, j.val = s.ctl.cyc.toNat + 1 := ⟨⟨s.ctl.cyc.toNat + 1, by omega⟩, rfl⟩
    have hstep := engineStep_inner (n := n) j h8 hj hinner
    refine ⟨_, hstep, hnext, rfl, rfl, rfl, rfl, rfl, hsample, rfl, rfl, rfl, fun hlast => absurd hlast hinner.ne,
      fun _ => ⟨rfl, rfl, fun k hk => ?_⟩, rfl, rfl, fun hlast => absurd hlast hinner.ne, rfl, rfl, rfl, rfl, rfl, rfl,
      rfl, rfl, rfl⟩
    obtain rfl : k = j := Fin.ext (hk.trans hj.symm)
    exact ⟨rfl, rfl, rfl⟩
  · exact ⟨_, engineStep_last h8 hlast, hnext, rfl, rfl, rfl, rfl, rfl, hsample, rfl, rfl, rfl,
      fun _ => ⟨rfl, rfl, rfl, rfl, stpPin_of_stopped rfl⟩, fun hinner => absurd hlast hinner.ne, rfl, rfl,
      fun _ => rfl, rfl, rfl, rfl, rfl, rfl, rfl, rfl, rfl, rfl⟩

/-! ### The start of a run -/

theorem referenceRunnable_of_programmed {s : State} (href : ReferencePlatform s.cfg) (hch : ChannelsProgrammed s) :
    referenceRunnable s = true := by
  obtain ⟨hdesc, hlow, hhigh⟩ := href
  obtain ⟨hdata, hstp, hnxt⟩ := hch
  simp [referenceRunnable, ← hdesc, hdata, hstp, hnxt, hlow, hhigh]

/-- A configured `RUN` over the reference table is the run of the accepted state. -/
theorem exec_run_of_reference {s : State} (hconf : s.ctl.configured = true) (href : ReferencePlatform s.cfg)
    (hch : ChannelsProgrammed s) : exec .run s = drain s.inputs (beginRun .run (accept s)) := by
  have hexec : exec .run s = resume (beginRun .run (accept s)) := by
    simp [exec, execRun, hconf, referenceRunnable_of_programmed href hch]
  obtain ⟨_, _, hinputs, _⟩ := beginRun_frame .run (accept s)
  rw [hexec, resume, hinputs]
  rfl

/-- After the instants before its last cycle, with no halt request and no timeout expired, it is in progress (R154). -/
theorem exec_run_in_progress {s : State} {pre rest : List Instant} (hconf : s.ctl.configured = true)
    (href : ReferencePlatform s.cfg) (hch : ChannelsProgrammed s) (hin : s.inputs = pre ++ rest)
    (hquiet : ∀ x ∈ pre, quiet x = true) (hcyc : clockCycles pre < s.cfg.cycleLimit)
    (hpos : ∀ n, s.cfg.runTimeout = some n → 0 < n) (htime : noTimeout s.cfg s.env.now pre) :
    ∃ u, exec .run s = drain rest u ∧ InRun .run (accept s) pre u := by
  obtain ⟨_, _, h8⟩ := id href
  have hstart : InRun .run (accept s) [] (beginRun .run (accept s)) := inRun_beginRun .run hpos
  obtain ⟨u, hdrain, hu⟩ := hstart.drain_inner h8 rfl hquiet hcyc htime rest
  exact ⟨u, by rw [exec_run_of_reference hconf href hch, hin, hdrain], hu⟩

/-! ### The last cycle -/

/-- Settles O20: the instant of the last cycle ends the run with the channels halted, and the response is `Ok`. -/
theorem runCompletesOverTheClockCycles : Obligations.RunCompletesOverTheClockCycles := by
  unfold Obligations.RunCompletesOverTheClockCycles
  intro s pre rest e hconf href hch hin hquiet hrst hclk hcyc hpre he
  obtain ⟨_, _, h8⟩ := id href
  obtain ⟨r, hexec, hr⟩ := exec_run_in_progress hconf href hch hin hquiet (Nat.lt_of_succ_le hcyc.le)
    (fun n hn => (hpre n hn).1) hpre
  obtain ⟨u, hlast, henv, hu⟩ := hr.drain_last h8 rfl hrst hclk hcyc he rest
  have hctl : u.ctl = { s.ctl with
      running := false, cyc := BitVec.ofNat 4 s.cfg.cycleLimit, runDone := true, runHalted := false } := by
    rw [hu.ctl, clockCycles_of_clock pre hclk, hcyc]
    rfl
  have hreleased : haltAll u = u := haltAll_of_released (by rw [hctl]) hu.dataOe0 hu.dataOe1
  have hinfo : runInfo u.ctl = 0 := by rw [hctl]; rfl
  rw [finishRun, hreleased, hinfo] at hlast
  obtain ⟨hcfg, hsession, htx, howner, _, hreset, hstp, hdata, hdir, hstop, hcap⟩ := hu.frame
  have hstpPin : stpPin u = s.pins.stpLevel := (stpPin_of_stopped (by rw [hctl])).trans hstp
  exact ⟨_, hexec.trans hlast, succeed_responded .ok 0 u, hctl, hdata, hdir, hstop, hcap, hu.dataOe0, hu.dataOe1,
    hreset, hstp, hstpPin, hsession, htx, howner, hcfg, henv, rfl⟩

/-! ### A halt request -/

section Run

variable {o : RunOf} {s t : State} {es : List Instant}

/-- A halt request before the last cycle ends the wait of the run, after the clock cycle of its own instant (R158,
R231). -/
theorem InRun.drain_halt (h : InRun o s es t) (h8 : s.cfg.cycleLimit ≤ 8) (hb : s.port.busy = true) {e : Instant}
    (hrst : e.rstN = true) (hhalt : e.haltReq = true) (hcyc : clockCycles (es ++ [e]) < s.cfg.cycleLimit)
    (htime : byTimeout s.cfg (now s) e) (rest : List Instant) :
    ∃ u, drain (e :: rest) t = .next { finishRun o (haltAll u) with inputs := rest } ∧ u.env = e ∧
      InRun o s (es ++ [e]) u := by
  obtain ⟨u, hclock, henv, hu⟩ := (h.atInstant e).clockEvent_inner h8 hcyc
  have hev : events { t with env := e } = .next (haltAll u) := by
    have hreq : u.env.haltReq = true := by rw [henv]; exact hhalt
    rw [events, hclock, andThen_next, haltEvent, if_pos hreq]
  have hfinish : waitRun o (now s) (haltAll u) = finishRun o (haltAll u) := if_neg (by simp)
  have hbusy : t.port.busy = true := by rw [h.frame.port]; exact hb
  have hended : (finishRun o (haltAll u)).port.busy = false := by
    cases o with
    | run => rfl
    | writeRegister => exact (validated_validateResponse (haltAll (haltAll u))).ended.1
  refine ⟨u, ?_, henv, hu⟩
  rw [drain_of_run hbusy h.inFlight (fun n hn => htime n (h.frame.cfg ▸ hn)), tick_of_run hrst hev hu.inFlight, hfinish,
    andThen_next, drain_idle hended]

/-- The control registers of a run that has been halted (R157). -/
theorem InRun.haltAll_ctl_eq (h : InRun o s es t) : (haltAll t).ctl = { s.ctl with
    running := false, cyc := BitVec.ofNat 4 (clockCycles es), runDone := false, runHalted := true } := by
  rw [haltAll_ctl, h.ctl]
  rfl

/-! ### The end of `RUN_TIMEOUT` -/

/-- A look at the wait of a run at or past the end of `RUN_TIMEOUT` halts it and fails (R155). -/
theorem waitRun_of_expired {t0 limit : Nat} (hr : t.ctl.running = true) (hc : t.cfg.runTimeout = some limit)
    (h : t0 + limit ≤ t.env.now) : waitRun o t0 t = raise .transactionTimeout (haltAll t) := by
  have hlate : limit ≤ elapsedSince (now t) t0 := by
    show limit ≤ t.env.now - t0
    omega
  simp only [waitRun, if_pos hr, hc, if_pos hlate]

/-- What a timeout leaves of a run in progress. -/
theorem InRun.timedOut (h : InRun o s es t) (rest : List Instant) :
    TimedOut s es { raise .transactionTimeout (haltAll t) with inputs := rest } := by
  obtain ⟨hcfg, hsession, htx, howner, _, hreset, hstp, hdata, hdir, hstop, hcap⟩ := h.frame
  exact ⟨raise_responded .transactionTimeout (haltAll t), h.haltAll_ctl_eq, hcap, hdata, hdir, hstop, rfl, rfl,
    hreset, hstp, hsession, htx, howner, hcfg⟩

/-- A quiet instant that falls on the end of `RUN_TIMEOUT` times the run out, after its own clock cycle. -/
theorem InRun.drain_timeout (h : InRun o s es t) (h8 : s.cfg.cycleLimit ≤ 8) (hb : s.port.busy = true) {e : Instant}
    {limit : Nat} (hq : quiet e = true) (hcyc : clockCycles (es ++ [e]) < s.cfg.cycleLimit)
    (hc : s.cfg.runTimeout = some limit) (hat : e.now = now s + limit) (rest : List Instant) :
    ∃ u, drain (e :: rest) t = .next { raise .transactionTimeout (haltAll u) with inputs := rest } ∧ u.env = e ∧
      InRun o s (es ++ [e]) u := by
  simp only [quiet, Bool.and_eq_true, Bool.not_eq_true'] at hq
  obtain ⟨hrst, hhalt⟩ := hq
  obtain ⟨u, hclock, henv, hu⟩ := (h.atInstant e).clockEvent_inner h8 hcyc
  have hnow : u.env.now = now s + limit := by rw [henv]; exact hat
  have hev : events { t with env := e } = .next u := by
    rw [events, hclock, andThen_next, haltEvent_of_no_request (by rw [henv]; exact hhalt)]
  have hfail : waitRun o (now s) u = raise .transactionTimeout (haltAll u) :=
    waitRun_of_expired (by rw [hu.ctl]) (hu.frame.cfg ▸ hc) hnow.ge
  have hbusy : t.port.busy = true := by rw [h.frame.port]; exact hb
  refine ⟨u, ?_, henv, hu⟩
  have hby (n : Nat) (hn : t.cfg.runTimeout = some n) : e.now ≤ now s + n := by
    rw [h.frame.cfg, hc] at hn
    cases hn
    exact hat.le
  rw [drain_of_run hbusy h.inFlight hby, tick_of_run hrst hev hu.inFlight, hfail, andThen_next, drain_idle rfl]

/-- Where the next instant comes later, the block times the run out by itself (log entries 15, 27). -/
theorem InRun.drain_timeout_gap (h : InRun o s es t) (hb : s.port.busy = true) {e : Instant} {limit : Nat}
    (hc : s.cfg.runTimeout = some limit) (hlate : now s + limit < e.now) (rest : List Instant) :
    ∃ u, drain (e :: rest) t = .next { raise .transactionTimeout (haltAll u) with inputs := e :: rest } ∧
      u.env.now = now s + limit ∧ InRun o s es u := by
  have hbusy : t.port.busy = true := by rw [h.frame.port]; exact hb
  have hct : t.cfg.runTimeout = some limit := h.frame.cfg ▸ hc
  have hdue : lookDue e t = true := by
    cases o <;> simp [lookDue, hbusy, h.inFlight, RunOf.wait, hct, hlate]
  have htime : lookTime t = now s + limit := by
    cases o <;> simp [lookTime, h.inFlight, RunOf.wait, hct]
  have hu := h.atInstant (held (now s + limit) t.env)
  have hfail : waitRun o (now s) { t with env := held (now s + limit) t.env } =
      raise .transactionTimeout (haltAll { t with env := held (now s + limit) t.env }) :=
    waitRun_of_expired (by rw [hu.ctl]) hct (Nat.le_refl _)
  refine ⟨_, ?_, rfl, hu⟩
  rw [drain_look hdue, ownLook_eq, htime, advance_of_run hu.inFlight, hfail, drain_idle rfl]

end Run

/-- Settles O22: the halt request leaves the run halted, and the response is `Ok` with the bit of `run_halted`. -/
theorem haltRequestEndsTheRun : Obligations.HaltRequestEndsTheRun := by
  unfold Obligations.HaltRequestEndsTheRun
  intro s pre rest e hconf href hch hin hquiet hrst hhalt hcyc hpre he
  obtain ⟨_, _, h8⟩ := id href
  have hbefore : clockCycles pre < s.cfg.cycleLimit :=
    Nat.lt_of_le_of_lt (List.Sublist.countP_le (List.sublist_append_left _ _)) hcyc
  obtain ⟨r, hexec, hr⟩ := exec_run_in_progress hconf href hch hin hquiet hbefore (fun n hn => (hpre n hn).1) hpre
  obtain ⟨u, hended, henv, hu⟩ := hr.drain_halt h8 rfl hrst hhalt hcyc he rest
  have hctl := hu.haltAll_ctl_eq
  have htwice : haltAll (haltAll u) = haltAll u := haltAll_of_released rfl rfl rfl
  have hinfo : runInfo (haltAll u).ctl = 1 := by rw [hctl]; rfl
  rw [finishRun, htwice, hinfo] at hended
  obtain ⟨hcfg, hsession, htx, howner, _, _, hstp, hdata, hdir, hstop, hcap⟩ := hu.frame
  have hstpPin : stpPin (haltAll u) = s.pins.stpLevel := (stpPin_of_stopped rfl).trans hstp
  exact ⟨_, hexec.trans hended, succeed_responded .ok 1 _, hctl, hdata, hdir, hstop, hcap, rfl, rfl, hstpPin,
    hsession, htx, howner, hcfg, henv, rfl⟩

/-- Settles O23: at the end of `RUN_TIMEOUT` the run in progress is halted, by the instant there or by the block. -/
theorem runTimeoutHaltsTheRun : Obligations.RunTimeoutHaltsTheRun := by
  unfold Obligations.RunTimeoutHaltsTheRun
  intro s pre rest e limit hconf href hch hin hquiet hcyc hlimit hpre _
  obtain ⟨_, _, h8⟩ := id href
  obtain ⟨r, hexec, hr⟩ := exec_run_in_progress hconf href hch hin hquiet hcyc (fun n hn => (hpre n hn).1) hpre
  refine ⟨fun hat hq hcyc' => ?_, fun hlate => ?_⟩
  · obtain ⟨u, hended, henv, hu⟩ := hr.drain_timeout h8 rfl hq hcyc' hlimit hat rest
    exact ⟨_, hexec.trans hended, hu.timedOut rest, henv, rfl⟩
  · obtain ⟨u, hended, hnow, hu⟩ := hr.drain_timeout_gap rfl hlimit hlate rest
    exact ⟨_, hexec.trans hended, hu.timedOut (e :: rest), hnow, rfl⟩

/-! ### A PHY clock that stops -/

/-- Outside `BRING_UP` a look keeps the clauses on the channels. -/
theorem ChannelInv.after_advance {s : State} (h : ChannelInv s.cfg s.ctl s.buf s.pins) (hf : s.inFlight.noBringUp) :
    ChannelInv (advance s).cfg (advance s).ctl (advance s).buf (advance s).pins ∧
      (advance s).inFlight.noBringUp := by
  rcases advance_of_noBringUp hf with ha | ⟨_, _, _, _, ha⟩ <;> rw [ha]
  · exact ⟨h, hf⟩
  · exact ⟨h.after_haltAll, noBringUp_idle⟩

/-- A run keeps the clauses on its channels from instant to instant, from whatever state it was started in. -/
theorem ChannelInv.after_drain {es : List Instant} {s t : State} (h : ChannelInv s.cfg s.ctl s.buf s.pins)
    (hf : s.inFlight.noBringUp) (hd : drain es s = .next t) : ChannelInv t.cfg t.ctl t.buf t.pins := by
  have htick (e : Instant) (u v : State) (hu : ChannelInv u.cfg u.ctl u.buf u.pins ∧ u.inFlight.noBringUp)
      (hv : tick e u = .next v) : ChannelInv v.cfg v.ctl v.buf v.pins ∧ v.inFlight.noBringUp := by
    obtain ⟨hchannels, hflight⟩ := hu
    rcases tick_cases hv with ⟨_, rfl⟩ | ⟨_, w, hev, rfl⟩
    · exact ⟨(lookInv_of_blockInv (blockInv_hardwareReset _)).channels, noBringUp_idle⟩
    · obtain ⟨_, hfw, _⟩ := events_frame hev
      exact (ChannelInv.after_events (s := { u with env := e }) hchannels hev).after_advance (hfw ▸ hflight)
  have hlook (u : State) (hu : ChannelInv u.cfg u.ctl u.buf u.pins ∧ u.inFlight.noBringUp) :
      ChannelInv (ownLook u).cfg (ownLook u).ctl (ownLook u).buf (ownLook u).pins ∧
        (ownLook u).inFlight.noBringUp := by
    rw [ownLook_eq]
    exact ChannelInv.after_advance (s := { u with env := held (lookTime u) u.env }) hu.1 hu.2
  exact (drain_keeps (fun u => ChannelInv u.cfg u.ctl u.buf u.pins ∧ u.inFlight.noBringUp) (fun _ _ hu => hu)
    (fun e _ u v hu _ => htick e u v hu) (fun u hu _ => hlook u hu) ⟨h, hf⟩ hd).1

/-- Settles O21: the run in progress presents the element of its cycle. -/
theorem runWithoutClockStaysInProgress : Obligations.RunWithoutClockStaysInProgress := by
  unfold Obligations.RunWithoutClockStaysInProgress
  intro s hconf href hch hquiet hcyc hnone
  have hnever (n : Nat) : s.cfg.runTimeout ≠ some n := by simp [hnone]
  obtain ⟨_, _, h8⟩ := id href
  obtain ⟨u, hexec, hu⟩ := exec_run_in_progress hconf href hch (List.append_nil s.inputs).symm hquiet hcyc
    (fun n hn => absurd hn (hnever n)) (fun n hn => absurd hn (hnever n))
  obtain ⟨hbusy, hvalid⟩ : u.port.busy = true ∧ u.port.rspValid = false := by rw [hu.frame.port]; exact ⟨rfl, rfl⟩
  have hrun : u.ctl.running = true := by rw [hu.ctl]
  have hidx : u.ctl.cyc.toNat = clockCycles s.inputs := hu.cyc_toNat (by omega)
  have hstart : beginRun .run (accept s) = waitFor (.run s.env.now) (startTrigger (accept s)) :=
    waitRun_waits rfl fun n hn => absurd hn (hnever n)
  have hchannels : ChannelInv u.cfg u.ctl u.buf u.pins := by
    have hd := (exec_run_of_reference hconf href hch).symm.trans (hexec.trans (drain_nil u))
    rw [hstart] at hd
    exact ChannelInv.after_drain (t := { u with inputs := [] })
      (channelInv_startTrigger (s := accept s) hconf href) (RunOf.wait_noBringUp .run _) hd
  refine ⟨_, hexec.trans (drain_nil u), hbusy, hvalid, hu.inFlight, rfl, hu.ctl, fun k hk => ?_, hu.frame.capture,
    hu.frame.session, hu.frame.tx, hu.frame.owner, hu.frame.cfg⟩
  obtain ⟨hout, hoe0, hoe1⟩ := hchannels.presents hrun k (hk.trans hidx.symm)
  have hstpPin : stpPin u = u.buf.stpBuf.getLsbD k.val := by rw [stpPin, if_pos hrun, hidx, hk]
  rw [hu.frame.dataBuf] at hout
  rw [hu.frame.dirBuf] at hoe0 hoe1
  rw [hu.frame.stpBuf] at hstpPin
  exact ⟨hout, hoe0, hoe1, hstpPin⟩

end Sys2Proof.Machine
end

section
/-! SUPPORT. `BRING_UP` from its acceptance to its end (44_bringup_fsm.md R180 to R194): the three waits as states that
depend on the accepted state and the present instant alone, the two delays up to the first poll, and the polls. -/

namespace Sys2Proof.Machine

/-! ### What is seen at a time -/

theorem firstLook_of_le {t : Nat} {x : Instant} (h : t ≤ x.now) (es : List Instant) :
    firstLook t x es = some (x, es) := by
  cases es <;> simp [firstLook, h]

theorem firstLook_of_gap {t : Nat} {x e : Instant} (h : x.now < t) (hgap : t < e.now) (es : List Instant) :
    firstLook t x (e :: es) = some (held t x, e :: es) := by
  simp [firstLook, Nat.not_le.2 h, hgap]

theorem firstLook_of_next {t : Nat} {x e : Instant} (h : x.now < t) (hnext : e.now ≤ t) (es : List Instant) :
    firstLook t x (e :: es) = firstLook t e es := by
  simp [firstLook, Nat.not_le.2 h, Nat.not_lt.2 hnext]

/-- What is still to come is no more than what was. -/
theorem firstLook_length_le {t : Nat} {x y : Instant} {es rest : List Instant}
    (h : firstLook t x es = some (y, rest)) : rest.length ≤ es.length := by
  induction es generalizing x with
  | nil =>
    rw [firstLook] at h
    split at h
    · cases h; exact Nat.le_refl _
    · cases h
  | cons e es ih =>
    rw [firstLook] at h
    split at h
    · cases h; exact Nat.le_refl _
    · split at h
      · cases h; exact Nat.le_refl _
      · exact Nat.le_succ_of_le (ih h)

/-- An instant that the look takes is one of those it uses up. -/
theorem used_of_firstLook {t : Nat} {x y e : Instant} {es used rest : List Instant}
    (h : firstLook t x es = some (y, rest)) (hused : e :: es = used ++ rest) :
    ∃ used', used = e :: used' ∧ es = used' ++ rest := by
  cases used with
  | nil =>
    have hlen := congrArg List.length hused
    have hle := firstLook_length_le h
    simp only [List.nil_append, List.length_cons] at hlen
    omega
  | cons u used =>
    obtain ⟨rfl, htail⟩ := List.cons.inj hused
    exact ⟨used, rfl, htail⟩

/-- A look at an earlier time in a gap does not change what is seen later in it. -/
theorem firstLook_held {t1 t2 : Nat} {x e : Instant} (h1 : x.now < t1) (h12 : t1 ≤ t2) (hgap : t1 < e.now)
    (es : List Instant) : firstLook t2 (held t1 x) (e :: es) = firstLook t2 x (e :: es) := by
  have h2 : x.now < t2 := Nat.lt_of_lt_of_le h1 h12
  rcases Nat.lt_or_eq_of_le h12 with hlt | rfl
  · have hheld : (held t1 x).now < t2 := hlt
    by_cases hlate : t2 < e.now
    · rw [firstLook_of_gap hheld hlate, firstLook_of_gap h2 hlate]
      rfl
    · rw [firstLook_of_next hheld (Nat.le_of_not_lt hlate), firstLook_of_next h2 (Nat.le_of_not_lt hlate)]
  · rw [firstLook_of_le (x := held t1 x) (Nat.le_refl t1), firstLook_of_gap h1 hgap]

/-! ### The waits -/

/-- The end of the reset hold of a `BRING_UP` accepted in `s` (R183). -/
def holdEnd (s : State) : Nat := s.env.now + s.cfg.tResetHold

/-- The end of its settle delay (R185). -/
def settleEnd (s : State) : Nat := holdEnd s + s.cfg.tSettle

/-- The deadline of its polling (R187). -/
def clockEnd (s : State) : Nat := settleEnd s + s.cfg.tClockDeadline

/-- The reset hold at the instant `x`. -/
def holding (s : State) (x : Instant) : State := { enterResetAsserted (accept s) with env := x }

/-- The settle delay at the instant `x`. -/
def settling (s : State) (x : Instant) : State :=
  { holding s x with
    session := { (holding s x).session with buState := .resetReleased, buDeadline := settleEnd s }
    pins := { (holding s x).pins with resetOut := true }
    inFlight := .bringUpSettle }

/-- The polling at the instant `y`, where the first poll was made at `x`. -/
def polling (s : State) (x y : Instant) : State :=
  { settling s y with
    session := { (settling s y).session with
      buState := .awaitingClockStable
      buDeadline := clockEnd s
      envPre := if s.cfg.sanityChecks then recordOf x.checkPre else .notRun }
    pins := { (settling s y).pins with stpLevel := false }
    inFlight := .bringUpPoll }

section Waits

variable {s : State} {x y e : Instant}

/-- `BRING_UP` begins with the reset hold at the present instant. -/
theorem exec_bringUp_holding (s : State) : exec .bringUp s = drain s.inputs (waitHold (holding s s.env)) :=
  exec_bringUp s

theorem waitHold_of_early (h : x.now < holdEnd s) : waitHold (holding s x) = holding s x :=
  if_neg (Nat.not_le.2 h)

/-- The hold ends at its deadline, and the settle delay is counted from there (R184, R185). -/
theorem waitHold_of_end (h : x.now = holdEnd s) : waitHold (holding s x) = waitSettle (settling s x) := by
  have hsettling : enterResetReleased (holding s x) = settling s x := by
    simp only [enterResetReleased, now, settling, settleEnd, ← h]
    rfl
  rw [← hsettling]
  exact if_pos h.ge

theorem waitSettle_of_early (h : x.now < settleEnd s) : waitSettle (settling s x) = settling s x :=
  if_neg (Nat.not_le.2 h)

/-- The settle delay ends at its deadline, with the first poll (R185 to R188). -/
theorem waitSettle_of_end (h : x.now = settleEnd s) : waitSettle (settling s x) = pollDir (polling s x x) := by
  have hpolling : enterAwaitingClockStable (settling s x) = polling s x x := by
    simp only [enterAwaitingClockStable, now, polling, clockEnd, ← h]
    rfl
  rw [← hpolling]
  exact if_pos h.ge

theorem pollDir_of_waiting (hdir : dirAt s.cfg y = true) (h : y.now < clockEnd s) :
    pollDir (polling s x y) = polling s x y :=
  (if_pos hdir).trans (if_neg (Nat.not_le.2 h))

/-! ### Instants of the waits -/

/-- Short of a hardware reset an instant of each wait is a look at it. -/
theorem tick_holding (he : e.rstN = true) : tick e (holding s x) = .next (waitHold (holding s e)) :=
  tick_of_released rfl rfl rfl he

theorem tick_settling (he : e.rstN = true) : tick e (settling s x) = .next (waitSettle (settling s e)) :=
  tick_of_released rfl rfl rfl he

theorem tick_polling (he : e.rstN = true) : tick e (polling s x y) = .next (pollDir (polling s x e)) :=
  tick_of_released rfl rfl rfl he

/-- In a gap past its deadline the block looks at the hold, and at the settle delay, by itself (log entry 15). -/
theorem drain_holding_gap (h : holdEnd s < e.now) (es : List Instant) :
    drain (e :: es) (holding s x) = drain (e :: es) (waitHold (holding s (held (holdEnd s) x))) := by
  have hdue : lookDue e (holding s x) = true := decide_eq_true h
  rw [drain_look hdue, ownLook_eq]
  rfl

theorem drain_settling_gap (h : settleEnd s < e.now) (es : List Instant) :
    drain (e :: es) (settling s x) = drain (e :: es) (waitSettle (settling s (held (settleEnd s) x))) := by
  have hdue : lookDue e (settling s x) = true := decide_eq_true h
  rw [drain_look hdue, ownLook_eq]
  rfl

/-- Otherwise the next instant is an instant of the wait. -/
theorem drain_holding_next (h : e.now ≤ holdEnd s) (he : e.rstN = true) (es : List Instant) :
    drain (e :: es) (holding s x) = drain es (waitHold (holding s e)) := by
  rw [drain_busy rfl (lookDue_of_delay (.inl rfl) h), tick_holding he, andThen_next]

theorem drain_settling_next (h : e.now ≤ settleEnd s) (he : e.rstN = true) (es : List Instant) :
    drain (e :: es) (settling s x) = drain es (waitSettle (settling s e)) := by
  rw [drain_busy rfl (lookDue_of_delay (.inr rfl) h), tick_settling he, andThen_next]

theorem drain_polling_next (h : e.now ≤ y.now + s.cfg.pollEps ∨ e.now ≤ clockEnd s) (he : e.rstN = true)
    (es : List Instant) : drain (e :: es) (polling s x y) = drain es (pollDir (polling s x e)) := by
  have hnear : lookDue e (polling s x y) = false := (lookDue_of_poll rfl rfl).trans (pollOverdue_of_near h)
  rw [drain_busy rfl hnear, tick_polling he, andThen_next]

end Waits

/-! ### The delays up to the first poll -/

/-- From the settle delay the block comes to the first poll with what is seen at the end of the delay. -/
theorem drain_settling {s : State} {x y : Instant} {es used rest : List Instant} (hx : x.now ≤ settleEnd s)
    (hlook : firstLook (settleEnd s) x es = some (y, rest)) (hused : es = used ++ rest)
    (hrst : ∀ z ∈ used, z.rstN = true) :
    drain es (waitSettle (settling s x)) = drain rest (pollDir (polling s y y)) := by
  have hended {x : Instant} {es : List Instant} (hx : x.now = settleEnd s)
      (hlook : firstLook (settleEnd s) x es = some (y, rest)) :
      drain es (waitSettle (settling s x)) = drain rest (pollDir (polling s y y)) := by
    rw [firstLook_of_le hx.ge] at hlook
    cases hlook
    rw [waitSettle_of_end hx]
  induction es generalizing x used with
  | nil =>
    rcases Nat.lt_or_eq_of_le hx with hearly | hend
    · simp [firstLook, Nat.not_le.2 hearly] at hlook
    · exact hended hend hlook
  | cons e es ih =>
    rcases Nat.lt_or_eq_of_le hx with hearly | hend
    · rw [waitSettle_of_early hearly]
      rcases Nat.lt_or_ge (settleEnd s) e.now with hgap | hnext
      · rw [firstLook_of_gap hearly hgap] at hlook
        cases hlook
        rw [drain_settling_gap hgap, waitSettle_of_end rfl]
      · rw [firstLook_of_next hearly hnext] at hlook
        obtain ⟨used', rfl, htail⟩ := used_of_firstLook hlook hused
        rw [drain_settling_next hnext (hrst e List.mem_cons_self)]
        exact ih hnext hlook htail fun z hz => hrst z (List.mem_cons_of_mem _ hz)
    · exact hended hend hlook

/-- From the reset hold it comes there too, through the settle delay that begins where the hold ends. -/
theorem drain_holding {s : State} {x y : Instant} {es used rest : List Instant} (hx : x.now ≤ holdEnd s)
    (hlook : firstLook (settleEnd s) x es = some (y, rest)) (hused : es = used ++ rest)
    (hrst : ∀ z ∈ used, z.rstN = true) :
    drain es (waitHold (holding s x)) = drain rest (pollDir (polling s y y)) := by
  have hle : holdEnd s ≤ settleEnd s := Nat.le_add_right ..
  have hended {x : Instant} {es used : List Instant} (hx : x.now = holdEnd s)
      (hlook : firstLook (settleEnd s) x es = some (y, rest)) (hused : es = used ++ rest)
      (hrst : ∀ z ∈ used, z.rstN = true) :
      drain es (waitHold (holding s x)) = drain rest (pollDir (polling s y y)) := by
    rw [waitHold_of_end hx]
    exact drain_settling (hx.trans_le hle) hlook hused hrst
  induction es generalizing x used with
  | nil =>
    rcases Nat.lt_or_eq_of_le hx with hearly | hend
    · simp [firstLook, Nat.not_le.2 (Nat.lt_of_lt_of_le hearly hle)] at hlook
    · exact hended hend hlook hused hrst
  | cons e es ih =>
    rcases Nat.lt_or_eq_of_le hx with hearly | hend
    · rw [waitHold_of_early hearly]
      rcases Nat.lt_or_ge (holdEnd s) e.now with hgap | hnext
      · rw [drain_holding_gap hgap]
        exact hended rfl ((firstLook_held hearly hle hgap es).trans hlook) hused hrst
      · rw [firstLook_of_next (Nat.lt_of_lt_of_le hearly hle) (hnext.trans hle)] at hlook
        obtain ⟨used', rfl, htail⟩ := used_of_firstLook hlook hused
        rw [drain_holding_next hnext (hrst e List.mem_cons_self)]
        exact ih hnext hlook htail fun z hz => hrst z (List.mem_cons_of_mem _ hz)
    · exact hended hend hlook hused hrst

/-! ### The polls -/

/-- Polls that find DIR asserted before the deadline change nothing, up to one that ends the operation (R188). -/
theorem drain_polling {s : State} {x y e : Instant} {pre rest later : List Instant}
    (hlist : y :: rest = pre ++ e :: later) (hrst : ∀ z ∈ (pre ++ [e]).tail, z.rstN = true)
    (hpre : ∀ z ∈ pre, dirAt s.cfg z = true ∧ z.now < clockEnd s)
    (hnear : ∀ z, pre.getLast? = some z → e.now ≤ z.now + s.cfg.pollEps ∨ e.now ≤ clockEnd s)
    (hend : (pollDir (polling s x e)).port.busy = false) :
    drain rest (pollDir (polling s x y)) = .next { pollDir (polling s x e) with inputs := later } := by
  induction pre generalizing y rest with
  | nil =>
    obtain ⟨rfl, rfl⟩ := List.cons.inj hlist
    exact drain_idle hend
  | cons p pre ih =>
    obtain ⟨rfl, hrest⟩ : y = p ∧ rest = pre ++ e :: later := List.cons.inj hlist
    obtain ⟨hdir, hearly⟩ := hpre y List.mem_cons_self
    obtain ⟨z, es, hz, hmem, hclose⟩ : ∃ z es, pre ++ e :: later = z :: es ∧ z ∈ pre ++ [e] ∧
        (z.now ≤ y.now + s.cfg.pollEps ∨ z.now ≤ clockEnd s) := by
      cases pre with
      | nil => exact ⟨e, later, rfl, List.mem_singleton_self e, hnear y rfl⟩
      | cons q pre => exact ⟨q, pre ++ e :: later, rfl, List.mem_cons_self, .inr (hpre q (by simp)).2.le⟩
    rw [pollDir_of_waiting hdir hearly, hrest, hz, drain_polling_next hclose (hrst z hmem)]
    refine ih hz.symm (fun w hw => hrst w (List.mem_of_mem_tail hw))
      (fun w hw => hpre w (List.mem_cons_of_mem _ hw)) (fun w hw => hnear w ?_)
    rw [List.getLast?_cons, hw]
    rfl

/-- `BRING_UP` up to the poll `e` that ends it. -/
theorem exec_bringUp_of_polls {s : State} {used rest pre later : List Instant} {x e : Instant}
    (hin : s.inputs = used ++ rest) (hused : ∀ y ∈ used, y.rstN = true)
    (hlook : firstLook (settleEnd s) s.env s.inputs = some (x, rest)) (hlist : x :: rest = pre ++ e :: later)
    (hrst : ∀ y ∈ (pre ++ [e]).tail, y.rstN = true) (hpre : ∀ y ∈ pre, dirAt s.cfg y = true ∧ y.now < clockEnd s)
    (hnear : ∀ y, pre.getLast? = some y → e.now ≤ y.now + s.cfg.pollEps ∨ e.now ≤ clockEnd s)
    (hend : (pollDir (polling s x e)).port.busy = false) :
    exec .bringUp s = .next { pollDir (polling s x e) with inputs := later } := by
  rw [exec_bringUp_holding, drain_holding (Nat.le_add_right ..) hlook hin hused]
  exact drain_polling hlist hrst hpre hnear hend

/-! ### The end of the polling -/

/-- The record of a checker's answer is a failure where the answer is not `Ok` (R23, R90, R193). -/
theorem failed_of_check (enabled : Bool) (a : CheckAnswer) :
    (if enabled then recordOf a else EnvRecord.notRun).failed = (enabled && decide (a ≠ .ok)) := by
  cases enabled <;> cases a <;> simp [recordOf, EnvRecord.failed]

/-- The owners from the acceptance of `BRING_UP` on (R181). -/
theorem polling_owner_get (s : State) (x y : Instant) (p : Pin) : (polling s x y).owner.get p =
    if p ∈ [Pin.reset, .dir, .stp] then .session
    else if p ∈ Pin.dataPins ++ [.nxt] then .free else s.owner.get p :=
  ownersAtBringUp_get s.owner p

/-- The reset, the direction and the stop pin are the session's. -/
theorem polling_session {s : State} {x y : Instant} {p : Pin} (hp : p ∈ [Pin.reset, .dir, .stp]) :
    (polling s x y).owner.get p = .session := by
  rw [polling_owner_get, if_pos hp]

/-- The data pins and NXT are given up at acceptance. -/
theorem polling_free {s : State} {x y : Instant} {p : Pin} (hp : p ∈ Pin.dataPins ++ [.nxt]) :
    (polling s x y).owner.get p = .free := by
  have hnot : ∀ p ∈ Pin.dataPins ++ [.nxt], p ∉ [Pin.reset, .dir, .stp] := by decide
  rw [polling_owner_get, if_neg (hnot p hp), if_pos hp]

/-- `BRING_UP` leaves the owner of the clock pin as it was. -/
theorem polling_clk {s : State} {x y : Instant} : (polling s x y).owner.get .clk = s.owner.clk :=
  polling_owner_get s x y .clk

/-- `Ready` hands over the stop pin alone (R189). -/
theorem enterReady_owner_get (s : State) (p : Pin) :
    (enterReady s).owner.get p = if p = .stp then .free else s.owner.get p :=
  OwnerMap.get_set s.owner .stp p .free

/-- Settles O31: the poll that finds DIR de-asserted enters `Ready`, which hands over the stop pin and no other. -/
theorem bringUpReachesReady : Obligations.BringUpReachesReady := by
  unfold Obligations.BringUpReachesReady
  intro s used rest pre later x e hin hused hlook hlist hrst hpre hnear hdir
  have hpoll : pollDir (polling s x e) = enterReady (polling s x e) := pollDir_of_released hdir
  have hexec := exec_bringUp_of_polls hin hused hlook hlist hrst hpre hnear (by rw [hpoll]; rfl)
  rw [hpoll] at hexec
  have hstp : (enterReady (polling s x e)).owner.get .stp = .free := by
    rw [enterReady_owner_get, if_pos rfl]
  have hkept (p : Pin) (hne : p ≠ .stp) :
      (enterReady (polling s x e)).owner.get p = (polling s x e).owner.get p := by
    rw [enterReady_owner_get, if_neg hne]
  have hfree (p : Pin) (hp : p ∈ Pin.dataPins ++ [.nxt]) : (enterReady (polling s x e)).owner.get p = .free :=
    have hnot : ∀ p ∈ Pin.dataPins ++ [.nxt], p ≠ .stp := by decide
    (hkept p (hnot p hp)).trans (polling_free hp)
  have hbits : envBits (readySession (polling s x e)) =
      (if s.cfg.sanityChecks && decide (x.checkPre ≠ .ok) then 1 else 0) |||
        (if s.cfg.sanityChecks && decide (e.checkPost ≠ .ok) then 2 else 0) := by
    rw [← failed_of_check, ← failed_of_check]
    rfl
  have hresponse : Responded 1 0 (envBits (readySession (polling s x e))) (enterReady (polling s x e)) :=
    succeed_responded .ready _ _
  rw [hbits] at hresponse
  exact ⟨_, hexec, hresponse, rfl, rfl, rfl, rfl, hstp,
    (hkept .reset (by decide)).trans (polling_session (by decide)),
    (hkept .dir (by decide)).trans (polling_session (by decide)), hfree,
    (hkept .clk (by decide)).trans polling_clk, rfl, rfl, rfl, rfl, rfl, rfl⟩

/-- Settles O32: the poll that finds DIR asserted at or past the deadline fails, and gives up no pin of the session. -/
theorem bringUpTimesOutWhileDirStaysAsserted : Obligations.BringUpTimesOutWhileDirStaysAsserted := by
  unfold Obligations.BringUpTimesOutWhileDirStaysAsserted
  intro s used rest pre later x e hin hused hlook hlist hrst hpre hnear hdir hlate
  have hpoll : pollDir (polling s x e) = enterFailed (polling s x e) := pollDir_of_expired hdir hlate
  have hexec := exec_bringUp_of_polls hin hused hlook hlist hrst hpre hnear (by rw [hpoll]; rfl)
  rw [hpoll] at hexec
  have hbits : envBits (polling s x e).session =
      if s.cfg.sanityChecks && decide (x.checkPre ≠ .ok) then 1 else 0 := by
    rw [← failed_of_check, envBits]
    exact BitVec.or_zero
  have hresponse : Responded 3 6 (envBits (polling s x e).session) (enterFailed (polling s x e)) :=
    raise_responded (.clockStartupTimeout _) _
  rw [hbits] at hresponse
  have hsession {p : Pin} (hp : p ∈ [Pin.reset, .dir, .stp]) : (polling s x e).owner.get p = .session :=
    polling_session hp
  have hfree (p : Pin) (hp : p ∈ Pin.dataPins ++ [.nxt]) : (polling s x e).owner.get p = .free := polling_free hp
  have hclk : (polling s x e).owner.get .clk = s.owner.clk := polling_clk
  exact ⟨_, hexec, hresponse, rfl, rfl, rfl, rfl, hsession (p := .stp) (by decide), hsession (p := .reset) (by decide),
    hsession (p := .dir) (by decide), hfree, hclk, rfl, rfl, rfl, rfl, rfl, rfl⟩

end Sys2Proof.Machine
end
